-- ==== Sys2Proof/Word.lean ====
section
/-! DEFINITION. The word types of the block: the 32-bit word of the register port (spec R22), the
16-bit header fields (R35), the byte of the DATA, source and sink spaces (R60). -/

namespace Sys2Proof

/-- A byte is 8 bits (R6). -/
abbrev Byte := BitVec 8

/-- A 16-bit header field's pattern (R35, R37). -/
abbrev Half := BitVec 16

/-- A 32-bit register's pattern (R22, R38). -/
abbrev Word := BitVec 32

end Sys2Proof
end

