-- ==== Sys2Proof/Config.lean ====
section
/-! DEFINITION. What an implementation fixes and the spec leaves OPEN (R5, decisions P1 and P2), and the
free values: what the spec calls unspecified and lets take any value (93_implementation_defined.md,
treatment `any value`). Every constant here is opaque and has no body: no proof can see its value. -/

namespace Sys2Proof

/-- DATA_CAP, the capacity in bytes of the DATA RAM: OPEN, `0 ≤ DATA_CAP ≤ 2^31 − 1` (R5, P1).
Log entry 2. -/
opaque Config.dataCap : Fin 2147483648

/-- STRICT_LAYOUT: OPEN (R5, P2). Log entry 2. -/
opaque Config.strictLayout : Bool

/-- The word of draw `k`: what a host register read returns where the spec leaves the value open (R216)
or refuses the access (R23). Log entry 3. -/
opaque Config.freeWord : Nat → Word

/-- Byte `i` of draw `k`: the sink after a SHORT_WRITE (R120) or after a reset over a pending ENCODE (R211),
the DATA RAM after a reset (R210), a data-port read in a hazard (R214). Log entries 3, 5 and 8. -/
opaque Config.freeByte : Nat → Nat → Byte

/-- The number of draw `k`: the sink's unspecified length (R120, R211), and how many host steps pass
before the engine's step (R221: finite, with no upper bound). Log entries 3 and 4. -/
opaque Config.freeNat : Nat → Nat

end Sys2Proof
end

