-- ==== Sys2Proof/Machine/HostOp.lean ====
section
/-! DEFINITION. What the host agent can do to the block (R20, R91, R223), as plain data: a host program is a
list of these (R93), and State holds the operations still to come. -/

namespace Sys2Proof.Machine

/-- One operation of the host agent. -/
inductive HostOp where
  /-- A register-port write of `v`, `width` bits wide, at byte offset `offset` (R23; `WR` of R91). -/
  | regWrite (width offset : Nat) (v : Word)
  /-- A register-port read, `width` bits wide, at byte offset `offset` (R23; `RD` of R91). -/
  | regRead (width offset : Nat)
  /-- HostDataWrite(i, b) on the byte-wide data port (R42; `DWR` of R91). -/
  | dataWrite (i : Nat) (b : Byte)
  /-- HostDataRead(i) on the byte-wide data port (R42; `DRD` of R91). -/
  | dataRead (i : Nat)
  /-- `POLL`: repeat `RD STATUS` until bit [0] BUSY reads 0 (R91). -/
  | poll
  /-- The conditional stop of LOAD: read STATUS, and end the host program if ERR = 1 (R92). -/
  | stopOnErr
  /-- The reset signal (R210, R211, R223). -/
  | reset
  /-- Provide a source: SRC_PRESENT, and the bytes Src(0 .. SRC_LEN−1) (R43, R223). -/
  | presentSource (present : Bool) (bytes : List Byte)
  /-- Provide a sink: DST_PRESENT, DST_CAP, and its initial bytes Dst(0 .. DST_LEN−1) (R44, R223). -/
  | presentSink (present : Bool) (cap : Fin 4294967296) (bytes : List Byte)
  /-- Connect both ports to one resource, the sink's (R77). -/
  | connect
  /-- Read the sink's bytes back (R222, R223; not while BUSY, R215). -/
  | readSink
  deriving DecidableEq, Repr

/-- What the host's last operation gave back (R223, column "the host gets back"). -/
inductive Response where
  /-- Nothing has been read yet. -/
  | none
  /-- The value of a register read. -/
  | word (w : Word)
  /-- The value of a data-port read. -/
  | byte (b : Byte)
  /-- The sink's bytes. -/
  | sinkBytes (bs : List Byte)
  deriving DecidableEq, Repr

end Sys2Proof.Machine
end

