-- ==== Sys2Proof/Machine/State.lean ====
section
/-! DEFINITION. The state of the machine as plain data: the block's own state (R21), its parameters (R5), the host-owned
source and sink (R43, R44), the model's fault set (R49), and the host's pending program. `State.reset` is the state
right after reset (R210). -/

namespace Sys2Proof.Machine

/-- A byte order (R8). -/
inductive ByteOrder where
  /-- Little-endian: least significant byte first. -/
  | le
  /-- Big-endian: most significant byte first. -/
  | be
  deriving DecidableEq, Repr

/-- A tag: an ordered sequence of exactly 4 bytes, `b0` first in the file (R7, R36). -/
structure Tag where
  b0 : Byte
  b1 : Byte
  b2 : Byte
  b3 : Byte
  deriving DecidableEq, Repr

/-- The error codes of STATUS.ERRCODE (R180). -/
inductive ErrCode where
  /-- 0x0: the last command succeeded, or none has completed. -/
  | none
  /-- 0x1: the underlying resource cannot be opened. -/
  | openFailure
  /-- 0x2: fewer bytes available than a field or block requires. -/
  | truncatedInput
  /-- 0x3: fewer bytes written than requested during encode. -/
  | shortWrite
  /-- 0x4: non-PCM format tag or non-8/16/32 bit depth, STRICT_LAYOUT = 1. -/
  | unsupportedLayout
  /-- 0x5: an access outside the DATA buffer. -/
  | outOfRange
  /-- 0x6: fileSize does not fit its signed 32-bit field. -/
  | lengthOverflow
  /-- 0x7: an illegal command word. -/
  | illegalCommand
  deriving DecidableEq, Repr

/-- The fields of STATUS (R25); the reserved bits read 0 and are not stored. -/
structure Status where
  /-- Bit [0]: a command is latched and not yet executed. -/
  busy : Bool
  /-- Bit [1]: the last issued command has completed, with or without error. -/
  done : Bool
  /-- Bit [2]: the last completed command ended in error. -/
  err : Bool
  /-- Bits [7:4]. -/
  errcode : ErrCode
  /-- Bit [8]: some command since reset ended in error. -/
  sticky : Bool
  /-- Bits [23:16]: bits [7:0] of the last command written to CMD. -/
  lastop : Byte
  deriving DecidableEq, Repr

/-- The header register file: the 13 fields in file order (R35). -/
structure Header where
  ctag : Tag
  fileSize : Word
  fmtTag : Tag
  fmtMark : Tag
  fmtBlk : Word
  audioFmt : Half
  channels : Half
  sRate : Word
  byteRate : Word
  blkAlign : Half
  bps : Half
  dataMark : Tag
  dataSize : Word
  deriving DecidableEq, Repr

/-- The DATA RAM as (index, byte) pairs in canonical form (`Memory.wf`, Machine/Ops.lean): indices strictly rising, no entry
equal to what an unlisted index reads as. -/
abbrev Memory := List Host.Cell

/-- The implementation parameters (R5): configuration, which no step changes. -/
structure Params where
  /-- DATA_CAP, at most 2^31 − 1. -/
  dataCap : Fin 2147483648
  /-- STRICT_LAYOUT. -/
  strictLayout : Bool
  deriving DecidableEq, Repr

/-- The source resource (R43): `bytes` holds Src(0 .. SRC_LEN−1), so SRC_LEN is its length. -/
structure Source where
  present : Bool
  bytes : List Byte
  deriving DecidableEq, Repr

/-- The sink resource (R44): `bytes` holds Dst(0 .. DST_LEN−1), so DST_LEN is its length; DST_CAP < 2^32 (R5). -/
structure Sink where
  present : Bool
  cap : Fin 4294967296
  bytes : List Byte
  deriving DecidableEq, Repr

/-- The model faults (R192): marks of the model for host protocol violations. The spec RECORDS them in a set that
nothing clears (R49, not even reset: R210), so a step that commits one answers a next state whose `faults`
holds the mark; no step ends in `Outcome.fault`. -/
inductive Fault where
  /-- HOST_BAD_ACCESS: recorded by a register-port access of the wrong width, misaligned, or outside 0x00 to 0xFC (R23). Safe: no
  state with the mark is a good final state. -/
  | hostBadAccess
  /-- HOST_HAZARD: recorded by a host register write or a data-port access while BUSY = 1 (R214). Safe, as above. -/
  | hostHazard
  deriving DecidableEq, Repr

/-- The set of recorded model faults (R49). -/
structure FaultSet where
  hostBadAccess : Bool
  hostHazard : Bool
  deriving DecidableEq, Repr

/-- Why a step has no meaning. -/
inductive Refusal where
  /-- Raised by an arm of `exec` whose command has no meaning yet; no arm does. Safe. -/
  | notModelled (mnemonic : String)
  /-- Raised by a host operation that changes the source or the sink, or reads the sink, while BUSY = 1: the spec's model has no
  such step (R78, R215; treatment `refuse` of U7). Safe in the model; the spec's note on hosts that break the duty is in log entry 9. -/
  | resourceWhileBusy
  /-- Raised by a host operation that would make SRC_LEN reach 2^32, outside R5's constraint. Safe. -/
  | sourceTooLong
  deriving DecidableEq, Repr

/-- The state. The first nine fields are the block's (R21); CMD reads 0, INFO is computed (R30), CONFIG and DATA_CAP read
the parameters, so none of these four is stored. -/
structure State where
  /-- STATUS (R25). -/
  status : Status
  /-- CURSOR (R26). -/
  cursor : Word
  /-- DATA_LEN (R27). -/
  dataLen : Word
  /-- PK_INDEX (R28). -/
  pkIndex : Word
  /-- PK_SAMPLE (R29). -/
  pkSample : Word
  /-- The header register file (R35). -/
  hdr : Header
  /-- The DATA sample RAM (R42). -/
  ram : Memory
  /-- The latched command, hidden (R45). -/
  latched : Word
  /-- The parameters (R5), constant. -/
  params : Params
  /-- The source (R43), host-owned. -/
  source : Source
  /-- The sink (R44), host-owned. -/
  sink : Sink
  /-- Whether the source port is connected to the sink's resource (R77), host-owned. -/
  shared : Bool
  /-- The model's fault set (R49). -/
  faults : FaultSet
  /-- The host program's operations still to come, next one first (R93). -/
  host : List HostOp
  /-- What the host's last reading operation gave back (R223). -/
  response : Response
  /-- The model's own: host steps that may still pass before the engine's step (R221). -/
  engineDelay : Nat
  /-- The model's own: how many free values have been drawn. -/
  draws : Nat
  deriving DecidableEq, Repr

/-- A tag of four zero bytes. -/
def Tag.zero : Tag := ⟨0, 0, 0, 0⟩

/-- The header registers after reset: all-zero bits (R35, R210). -/
def Header.reset : Header where
  ctag := Tag.zero
  fileSize := 0
  fmtTag := Tag.zero
  fmtMark := Tag.zero
  fmtBlk := 0
  audioFmt := 0
  channels := 0
  sRate := 0
  byteRate := 0
  blkAlign := 0
  bps := 0
  dataMark := Tag.zero
  dataSize := 0

/-- STATUS after reset: 0x00000000 (R25, R210). -/
def Status.reset : Status := ⟨false, false, false, .none, false, 0⟩

/-- The machine right after reset (R210), with the parameters open (R5), no resource presented yet, an empty fault set and no
host program (R224; log entries 2 and 6). -/
def State.reset : State where
  status := Status.reset
  cursor := 0
  dataLen := 0
  pkIndex := 0
  pkSample := 0
  hdr := Header.reset
  ram := []
  latched := 0
  params := ⟨Config.dataCap, Config.strictLayout⟩
  source := ⟨false, []⟩
  sink := ⟨false, 0, []⟩
  shared := false
  faults := ⟨false, false⟩
  host := []
  response := .none
  engineDelay := 0
  draws := 0

end Sys2Proof.Machine
end

