-- ==== Sys2Proof/Machine/Ops.lean ====
section
/-! DEFINITION. The named operations: byte order (R8), tags (R36), the DATA RAM (R9, R42), the source and sink ports (R9, R75),
issuing a command (R24), completing it (R45), raising an error (R181), reset (R210, R211), draws of free values. -/

namespace Sys2Proof.Machine

/-! ### Byte order (R8) -/

/-- `enc_16(v, ord)` (R8). -/
def enc16 (v : Half) (ord : ByteOrder) : List Byte :=
  match ord with
  | .le => [v.extractLsb' 0 8, v.extractLsb' 8 8]
  | .be => [v.extractLsb' 8 8, v.extractLsb' 0 8]

/-- `enc_32(v, ord)` (R8). -/
def enc32 (v : Word) (ord : ByteOrder) : List Byte :=
  match ord with
  | .le => [v.extractLsb' 0 8, v.extractLsb' 8 8, v.extractLsb' 16 8, v.extractLsb' 24 8]
  | .be => [v.extractLsb' 24 8, v.extractLsb' 16 8, v.extractLsb' 8 8, v.extractLsb' 0 8]

/-- `dec_16(bs[at .. at+1], ord)` (R8). -/
def dec16 (bs : List Byte) (at' : Nat) (ord : ByteOrder) : Half :=
  match ord with
  | .le => bs.getD (at' + 1) 0 ++ bs.getD at' 0
  | .be => bs.getD at' 0 ++ bs.getD (at' + 1) 0

/-- `dec_32(bs[at .. at+3], ord)` (R8). -/
def dec32 (bs : List Byte) (at' : Nat) (ord : ByteOrder) : Word :=
  match ord with
  | .le => bs.getD (at' + 3) 0 ++ bs.getD (at' + 2) 0 ++ bs.getD (at' + 1) 0 ++ bs.getD at' 0
  | .be => bs.getD at' 0 ++ bs.getD (at' + 1) 0 ++ bs.getD (at' + 2) 0 ++ bs.getD (at' + 3) 0

/-! ### Tags (R7, R36) -/

/-- The tag at `bs[at .. at+3]`, in file order (R63). -/
def tagAt (bs : List Byte) (at' : Nat) : Tag :=
  ⟨bs.getD at' 0, bs.getD (at' + 1) 0, bs.getD (at' + 2) 0, bs.getD (at' + 3) 0⟩

/-- The bytes of a tag in tag order t[0], t[1], t[2], t[3] (R63). -/
def tagBytes (t : Tag) : List Byte := [t.b0, t.b1, t.b2, t.b3]

/-- The register view of a tag: `x[reg][8k+7:8k] = t[k]` (R36). -/
def tagToReg (t : Tag) : Word := t.b3 ++ t.b2 ++ t.b1 ++ t.b0

/-- The tag a register value holds (R36). -/
def tagOfReg (w : Word) : Tag :=
  ⟨w.extractLsb' 0 8, w.extractLsb' 8 8, w.extractLsb' 16 8, w.extractLsb' 24 8⟩

/-- "RIFF" (R7, R36). -/
def tagRIFF : Tag := ⟨0x52, 0x49, 0x46, 0x46⟩
/-- "RIFX" (R7, R36). -/
def tagRIFX : Tag := ⟨0x52, 0x49, 0x46, 0x58⟩
/-- "WAVE" (R7, R36). -/
def tagWAVE : Tag := ⟨0x57, 0x41, 0x56, 0x45⟩
/-- "fmt " (R7, R36). -/
def tagFmt : Tag := ⟨0x66, 0x6D, 0x74, 0x20⟩
/-- "data" (R7, R36). -/
def tagData : Tag := ⟨0x64, 0x61, 0x74, 0x61⟩

/-! ### The DATA RAM (R42) -/

/-- What a RAM index that nothing has written reads as: 0x00. DESIGN CHOICE, log entry 1: the spec leaves the RAM's contents
after reset unspecified, and lets no rule observe them (R42). -/
def Memory.unlisted : Byte := 0

/-- The canonical form: indices strictly rising, no entry equal to what an unlisted index reads as. -/
abbrev Memory.wf (m : Memory) : Prop :=
  m.Pairwise (fun c d => c.1 < d.1) ∧ ∀ c ∈ m, c.2 ≠ Memory.unlisted

/-- Every listed index is below `n`: the RAM has no byte at or above DATA_CAP (R42). -/
abbrev Memory.below (m : Memory) (n : Nat) : Prop := ∀ c ∈ m, c.1 < n

/-- `DATA[a]` (R42). -/
def Memory.read (m : Memory) (a : Nat) : Byte :=
  match m with
  | [] => Memory.unlisted
  | (k, b) :: rest => if k = a then b else Memory.read rest a

/-- `cell` in front of `m`, unless it holds what an unlisted index reads as. -/
def Memory.cons (a : Nat) (b : Byte) (m : Memory) : Memory :=
  if b = Memory.unlisted then m else (a, b) :: m

/-- `DATA[a] <- b`, keeping the canonical form. -/
def Memory.write (m : Memory) (a : Nat) (b : Byte) : Memory :=
  match m with
  | [] => Memory.cons a b []
  | (k, c) :: rest =>
    if a < k then Memory.cons a b ((k, c) :: rest)
    else if a = k then Memory.cons a b rest
    else (k, c) :: Memory.write rest a b

/-- `MemRead(a, n)`: the bytes DATA[a] .. DATA[a+n−1] (R9). -/
def Memory.readBytes (m : Memory) (a n : Nat) : List Byte :=
  (List.range n).map fun i => Memory.read m (a + i)

/-- `MemWrite(a, |bs|, bs)`: bytes bs[0..] to DATA[a..] (R9). -/
def Memory.writeBytes (m : Memory) (a : Nat) (bs : List Byte) : Memory :=
  match bs with
  | [] => m
  | b :: rest => Memory.writeBytes (Memory.write m a b) (a + 1) rest

/-- `for i in lo .. hi − 1: DATA[i] <- 0x00` (R27). The unlisted value is 0x00, so the entries go. -/
def Memory.zeroFill (m : Memory) (lo hi : Nat) : Memory :=
  m.filter fun c => !(decide (lo ≤ c.1) && decide (c.1 < hi))

/-- A RAM of `n` bytes with every byte unspecified (R210 point 4): byte `i` is free byte `i` of draw `k`. -/
def Memory.unspecified (n k : Nat) : Memory :=
  (List.range n).foldr (fun i m => Memory.cons i (Config.freeByte k i) m) []

/-! ### The source and the sink (R43, R44) -/

/-- The source the engine sees: the host's source, or the sink's resource when the ports share one (R77). -/
def State.src (s : State) : Source :=
  if s.shared then ⟨s.sink.present, s.sink.bytes⟩ else s.source

/-- `SrcRead(o, n)` (R9): the bytes when the source is present and o + n ≤ SRC_LEN, otherwise short (`none`). -/
def Source.read (src : Source) (o n : Nat) : Option (List Byte) :=
  if src.present = true ∧ o + n ≤ src.bytes.length then some ((src.bytes.drop o).take n) else none

/-- `DstWrite(o, bs)` within DST_CAP (R75): Dst(o+i) <- bs[i], DST_LEN <- max(DST_LEN, o + |bs|), bytes beyond the write keep their
values. ENCODE writes at 0 and then at 44 (R69), so the bytes between DST_LEN and `o`, which the rule does not speak of, are none. -/
def Sink.write (k : Sink) (o : Nat) (bs : List Byte) : Sink :=
  { k with bytes := k.bytes.take o ++ List.replicate (o - k.bytes.length) 0 ++ bs ++ k.bytes.drop (o + bs.length) }

/-- The unspecified length of a sink whose bytes below `n` are unspecified: between DST_LEN and max(DST_LEN, n) (R120, R211). -/
def Sink.freeLen (k : Sink) (n draw : Nat) : Nat :=
  k.bytes.length + Config.freeNat draw % (max k.bytes.length n - k.bytes.length + 1)

/-- The sink with Dst(0 .. n−1) unspecified and DST_LEN unspecified within its bounds (R75, R120, R211). -/
def Sink.scramble (k : Sink) (n draw : Nat) : Sink :=
  { k with bytes := (List.range (k.freeLen n draw)).map fun i =>
      if i < n then Config.freeByte draw i else k.bytes.getD i 0 }

/-! ### Issuing, completing, raising (R24, R45, R181) -/

/-- Completion: BUSY <- 0 and DONE <- 1 (R45 point 2). -/
def State.complete (s : State) : State :=
  { s with status := { s.status with busy := false, done := true } }

/-- `raise E` (R181): ERR <- 1, ERRCODE <- code(E), STICKY <- 1, and completion. -/
def State.raise (s : State) (e : ErrCode) : State :=
  { s with status := { s.status with busy := false, done := true, err := true, errcode := e, sticky := true } }

/-- What a CMD write of `w` does (R24): latch it, BUSY <- 1, DONE, ERR and ERRCODE <- 0, LASTOP <- w[7:0], STICKY unchanged. -/
def State.latch (s : State) (w : Word) : State :=
  { s with
    latched := w
    status := { s.status with busy := true, done := false, err := false, errcode := .none, lastop := w.extractLsb' 0 8 } }

/-- A CMD write while BUSY = 0 (R24), and how many host steps may pass before the engine's step: a draw, finite and
unbounded (R221, log entry 4). -/
def State.issue (s : State) (w : Word) : State :=
  { s.latch w with engineDelay := Config.freeNat s.draws, draws := s.draws + 1 }

/-- Record a model fault; nothing clears it (R49, R192). -/
def State.record (s : State) (f : Fault) : State :=
  match f with
  | .hostBadAccess => { s with faults := { s.faults with hostBadAccess := true } }
  | .hostHazard => { s with faults := { s.faults with hostHazard := true } }

/-- What the host gets back (R223). -/
def State.respond (s : State) (r : Response) : State :=
  { s with response := r }

/-- The host gets back a word the spec leaves open: a fresh draw (R216). -/
def State.respondFreeWord (s : State) : State :=
  { s with response := .word (Config.freeWord s.draws), draws := s.draws + 1 }

/-- The host gets back a byte the spec leaves open: a fresh draw. -/
def State.respondFreeByte (s : State) : State :=
  { s with response := .byte (Config.freeByte s.draws 0), draws := s.draws + 1 }

/-- The host asks for an operation the model has no move for while BUSY = 1 (R78, R215). -/
def refuseWhileBusy (s : State) (t : State) : Host.Outcome State Fault Refusal :=
  if s.status.busy then .refused .resourceWhileBusy else .next t

end Sys2Proof.Machine
end

