-- ==== Sys2Proof/Machine/Flags.lean ====
section
/-! DEFINITION. The flags and the combinational functions behind them: byte-order resolution (R61), sample width (R110), tag
check (R111), unsupported layout (R112), and the words STATUS (R25), INFO (R30) and CONFIG (R31). -/

namespace Sys2Proof.Machine

/-- `resolveOrder(t)`: LE if t[3] = 0x46, BE for every other value (R61). -/
def resolveOrder (t : Tag) : ByteOrder := if t.b3 = 0x46#8 then .le else .be

/-- `sampleWidth(bps)` in bytes (R110). -/
def sampleWidth (bps : Half) : Nat :=
  if bps.toInt = 8 then 1 else if bps.toInt = 16 then 2 else 4

/-- `tagErr`: some tag differs from its required value (R111). -/
def tagErr (h : Header) : Bool :=
  !((h.ctag == tagRIFF || h.ctag == tagRIFX) && h.fmtTag == tagWAVE && h.fmtMark == tagFmt && h.dataMark == tagData)

/-- `unsupported(af, bps)` (R112). -/
def unsupported (af bps : Half) : Bool :=
  af.toInt != 1 || !(bps.toInt == 8 || bps.toInt == 16 || bps.toInt == 32)

/-- EXTFMT: sext_32(x[H_FMTBLK]) > 16 (R30). -/
def extFmt (h : Header) : Bool := decide (16 < h.fmtBlk.toInt)

/-- INFO.ORDER: 0 for LE, 1 for BE (R30). -/
def orderBit (ord : ByteOrder) : BitVec 1 :=
  match ord with
  | .le => 0#1
  | .be => 1#1

/-- The number of an error code (R180). -/
def errNumber (e : ErrCode) : BitVec 4 :=
  match e with
  | .none => 0x0#4
  | .openFailure => 0x1#4
  | .truncatedInput => 0x2#4
  | .shortWrite => 0x3#4
  | .unsupportedLayout => 0x4#4
  | .outOfRange => 0x5#4
  | .lengthOverflow => 0x6#4
  | .illegalCommand => 0x7#4

/-- The STATUS word (R25), from bit 31 down: reserved, LASTOP, reserved, STICKY, ERRCODE, reserved, ERR, DONE, BUSY. -/
def statusWord (t : Status) : Word :=
  0#8 ++ t.lastop ++ 0#7 ++ BitVec.ofBool t.sticky ++ errNumber t.errcode ++ 0#1
    ++ BitVec.ofBool t.err ++ BitVec.ofBool t.done ++ BitVec.ofBool t.busy

/-- The INFO word, computed from the header (R30), from bit 31 down: reserved, EXTFMT, TAGERR, UNSUP, SWIDTH, reserved, ORDER. -/
def infoWord (h : Header) : Word :=
  0#21 ++ BitVec.ofBool (extFmt h) ++ BitVec.ofBool (tagErr h) ++ BitVec.ofBool (unsupported h.audioFmt h.bps)
    ++ BitVec.ofNat 4 (sampleWidth h.bps) ++ 0#3 ++ orderBit (resolveOrder h.ctag)

/-- The CONFIG word: bit [0] is STRICT_LAYOUT (R31). -/
def configWord (p : Params) : Word := 0#31 ++ BitVec.ofBool p.strictLayout

end Sys2Proof.Machine
end

