-- ==== Sys2Proof/Machine/Operands.lean ====
section
/-! DEFINITION. The register operands: the register map (R22), the access check (R23), and reading and writing every register
while BUSY = 0 (R24 to R39), and the data port (R42). -/

namespace Sys2Proof.Machine

/-- The registers of the map (R22). -/
inductive Reg where
  | cmd | status | cursor | dataLen | pkIndex | pkSample | info | config
  | hCtag | hFileSize | hFmtTag | hFmtMark | hFmtBlk | hAudioFmt | hChannels | hSRate | hByteRate | hBlkAlign | hBps
  | hDataMark | hDataSize | dataCap
  /-- A reserved offset, 0x58 to 0xFC (R33). -/
  | reserved
  deriving DecidableEq, Repr

/-- The register at word `n` of the map, that is at offset 4n (R22). -/
def regOfWord (n : Nat) : Reg :=
  match n with
  | 0 => .cmd
  | 1 => .status
  | 2 => .cursor
  | 3 => .dataLen
  | 4 => .pkIndex
  | 5 => .pkSample
  | 6 => .info
  | 7 => .config
  | 8 => .hCtag
  | 9 => .hFileSize
  | 10 => .hFmtTag
  | 11 => .hFmtMark
  | 12 => .hFmtBlk
  | 13 => .hAudioFmt
  | 14 => .hChannels
  | 15 => .hSRate
  | 16 => .hByteRate
  | 17 => .hBlkAlign
  | 18 => .hBps
  | 19 => .hDataMark
  | 20 => .hDataSize
  | 21 => .dataCap
  | _ => .reserved

/-- The register a port access reaches, or none where the model refuses the access: another width than 32, an offset that is no
multiple of 4, an offset above 0xFC (R23). -/
def regAt (width offset : Nat) : Option Reg :=
  if width = 32 ∧ offset % 4 = 0 ∧ offset ≤ 0xFC then some (regOfWord (offset / 4)) else none

/-- A 16-bit header register reads zero-extended (R37). -/
def readHalf (v : Half) : Word := v.zeroExtend 32

/-- A write to a 16-bit header register stores bits [15:0] (R37). -/
def lowHalf (v : Word) : Half := v.extractLsb' 0 16

/-- What a register reads as while BUSY = 0 (R22, R24 to R39). -/
def readReg (s : State) (r : Reg) : Word :=
  match r with
  | .cmd => 0
  | .status => statusWord s.status
  | .cursor => s.cursor
  | .dataLen => s.dataLen
  | .pkIndex => s.pkIndex
  | .pkSample => s.pkSample
  | .info => infoWord s.hdr
  | .config => configWord s.params
  | .hCtag => tagToReg s.hdr.ctag
  | .hFileSize => s.hdr.fileSize
  | .hFmtTag => tagToReg s.hdr.fmtTag
  | .hFmtMark => tagToReg s.hdr.fmtMark
  | .hFmtBlk => s.hdr.fmtBlk
  | .hAudioFmt => readHalf s.hdr.audioFmt
  | .hChannels => readHalf s.hdr.channels
  | .hSRate => s.hdr.sRate
  | .hByteRate => s.hdr.byteRate
  | .hBlkAlign => readHalf s.hdr.blkAlign
  | .hBps => readHalf s.hdr.bps
  | .hDataMark => tagToReg s.hdr.dataMark
  | .hDataSize => s.hdr.dataSize
  | .dataCap => BitVec.ofNat 32 s.params.dataCap.val
  | .reserved => 0

/-- A DATA_LEN write of `v` (R27): growth zero-fills, a value above DATA_CAP has no effect. -/
def writeDataLen (s : State) (v : Word) : State :=
  if v.toNat ≤ s.params.dataCap.val then
    { s with ram := Memory.zeroFill s.ram s.dataLen.toNat v.toNat, dataLen := v }
  else s

/-- A host write of `v` to a register while BUSY = 0 (R22, R27 to R39): a CMD write issues a command (R24), read-only and
reserved registers ignore the write (R33), header registers are plain storage (R39). -/
def writeReg (s : State) (r : Reg) (v : Word) : State :=
  match r with
  | .cmd => s.issue v
  | .dataLen => writeDataLen s v
  | .pkIndex => { s with pkIndex := v }
  | .pkSample => { s with pkSample := v }
  | .hCtag => { s with hdr := { s.hdr with ctag := tagOfReg v } }
  | .hFileSize => { s with hdr := { s.hdr with fileSize := v } }
  | .hFmtTag => { s with hdr := { s.hdr with fmtTag := tagOfReg v } }
  | .hFmtMark => { s with hdr := { s.hdr with fmtMark := tagOfReg v } }
  | .hFmtBlk => { s with hdr := { s.hdr with fmtBlk := v } }
  | .hAudioFmt => { s with hdr := { s.hdr with audioFmt := lowHalf v } }
  | .hChannels => { s with hdr := { s.hdr with channels := lowHalf v } }
  | .hSRate => { s with hdr := { s.hdr with sRate := v } }
  | .hByteRate => { s with hdr := { s.hdr with byteRate := v } }
  | .hBlkAlign => { s with hdr := { s.hdr with blkAlign := lowHalf v } }
  | .hBps => { s with hdr := { s.hdr with bps := lowHalf v } }
  | .hDataMark => { s with hdr := { s.hdr with dataMark := tagOfReg v } }
  | .hDataSize => { s with hdr := { s.hdr with dataSize := v } }
  | .status | .cursor | .info | .config | .dataCap | .reserved => s

/-- `HostDataRead(i)` while BUSY = 0: DATA[i] below DATA_LEN, otherwise 0x00 (R42). -/
def dataPortRead (s : State) (i : Nat) : Byte :=
  if i < s.dataLen.toNat then Memory.read s.ram i else 0

/-- `HostDataWrite(i, b)` while BUSY = 0: DATA[i] <- b below DATA_LEN, otherwise nothing (R42). -/
def dataPortWrite (s : State) (i : Nat) (b : Byte) : State :=
  if i < s.dataLen.toNat then { s with ram := Memory.write s.ram i b } else s

end Sys2Proof.Machine
end

