-- ==== Sys2Proof/Machine/Codec.lean ====
section
/-! DEFINITION. The header codec: DECODE (R113 to R116) and ENCODE (R120). -/

namespace Sys2Proof.Machine

/-- A failed parse: the error raised and the CURSOR value its line of the pseudocode leaves (R113). -/
structure ParseError where
  code : ErrCode
  cursor : Nat
  deriving DecidableEq, Repr

/-- What the first three reads give (R113): source bytes 0..19. -/
structure Preamble where
  ctag : Tag
  fileSize : Word
  fmtTag : Tag
  fmtMark : Tag
  fmtBlk : Word
  deriving DecidableEq, Repr

/-- DECODE's first three reads, (0, 4), (4, 4) and (8, 12) (R69, R113); the order is resolved before any integer (R65). -/
def parsePreamble (src : Source) : Except ParseError Preamble :=
  match src.read 0 4 with
  | none => .error ⟨.truncatedInput, 0⟩
  | some r1 =>
    match src.read 4 4 with
    | none => .error ⟨.truncatedInput, 4⟩
    | some r2 =>
      match src.read 8 12 with
      | none => .error ⟨.truncatedInput, 8⟩
      | some r3 =>
        let ord := resolveOrder (tagAt r1 0)
        .ok { ctag := tagAt r1 0, fileSize := dec32 r2 0 ord, fmtTag := tagAt r3 0, fmtMark := tagAt r3 4, fmtBlk := dec32 r3 8 ord }

/-- The header the preamble, the format block `r4` and the data-marker bytes `r5` give (R81, R84, R115). -/
def headerOf (p : Preamble) (r4 r5 : List Byte) : Header :=
  let ord := resolveOrder p.ctag
  { ctag := p.ctag
    fileSize := p.fileSize
    fmtTag := p.fmtTag
    fmtMark := p.fmtMark
    fmtBlk := p.fmtBlk
    audioFmt := dec16 r4 0 ord
    channels := dec16 r4 2 ord
    sRate := dec32 r4 4 ord
    byteRate := dec32 r4 8 ord
    blkAlign := dec16 r4 12 ord
    bps := dec16 r4 14 ord
    dataMark := tagAt r5 0
    dataSize := dec32 r5 4 ord }

/-- DECODE's last two reads, (20, B) and (20 + B, 8), with B = sext_32(fmtBlk), and the STRICT_LAYOUT check (R113, R116).
The result is the header and bytesConsumed = 28 + B. -/
def parseBlocks (strict : Bool) (src : Source) (p : Preamble) : Except ParseError (Header × Nat) :=
  if p.fmtBlk.toInt < 16 then .error ⟨.truncatedInput, 20⟩
  else
    match src.read 20 p.fmtBlk.toInt.toNat with
    | none => .error ⟨.truncatedInput, 20⟩
    | some r4 =>
      match src.read (20 + p.fmtBlk.toInt.toNat) 8 with
      | none => .error ⟨.truncatedInput, 20 + p.fmtBlk.toInt.toNat⟩
      | some r5 =>
        if strict && unsupported (headerOf p r4 r5).audioFmt (headerOf p r4 r5).bps then
          .error ⟨.unsupportedLayout, 28 + p.fmtBlk.toInt.toNat⟩
        else .ok (headerOf p r4 r5, 28 + p.fmtBlk.toInt.toNat)

/-- DECODE's parse of a source, in the pseudocode's order (R113). -/
def parseHeader (strict : Bool) (src : Source) : Except ParseError (Header × Nat) :=
  if src.present = false then .error ⟨.openFailure, 0⟩
  else
    match parsePreamble src with
    | .error e => .error e
    | .ok p => parseBlocks strict src p

/-- DECODE (R113): commit the header and CURSOR <- bytesConsumed on success; on an error only CURSOR is written first. -/
def execDecodeHdr (s : State) : Host.Outcome State Fault Refusal :=
  .next <|
    match parseHeader s.params.strictLayout s.src with
    | .ok (h, c) => State.complete { s with hdr := h, cursor := BitVec.ofNat 32 c }
    | .error e => State.raise { s with cursor := BitVec.ofNat 32 e.cursor } e.code

/-- The 44 header bytes ENCODE emits for a Data buffer of length `len` (R82, R120): fileSize, fmtBlockSize and dataSize recomputed. -/
def headerBytes (h : Header) (len : Nat) : List Byte :=
  let ord := resolveOrder h.ctag
  tagBytes h.ctag ++ enc32 (BitVec.ofNat 32 (44 + len)) ord
    ++ tagBytes h.fmtTag ++ tagBytes h.fmtMark ++ enc32 16#32 ord
    ++ enc16 h.audioFmt ord ++ enc16 h.channels ord
    ++ enc32 h.sRate ord ++ enc32 h.byteRate ord
    ++ enc16 h.blkAlign ord ++ enc16 h.bps ord
    ++ tagBytes h.dataMark ++ enc32 (BitVec.ofNat 32 len) ord

/-- The sink after ENCODE's two requests, (0, 44) and, when L > 0, (44, L) (R69, R120). -/
def emitTo (k : Sink) (h : Header) (payload : List Byte) : Sink :=
  let withHeader := k.write 0 (headerBytes h payload.length)
  if payload.length = 0 then withHeader else withHeader.write 44 payload

/-- ENCODE's successful end (R120): the sink written, H_DATASIZE <- L, CURSOR <- 44 + L. -/
def encodeCommit (s : State) : State :=
  State.complete
    { s with
      sink := emitTo s.sink s.hdr (Memory.readBytes s.ram 0 s.dataLen.toNat)
      hdr := { s.hdr with dataSize := s.dataLen }
      cursor := BitVec.ofNat 32 (44 + s.dataLen.toNat) }

/-- ENCODE's short write (R120): Dst(0 .. DST_CAP−1) and DST_LEN unspecified, then SHORT_WRITE. -/
def encodeShort (s : State) : State :=
  State.raise { s with sink := s.sink.scramble s.sink.cap.val s.draws, draws := s.draws + 1 } .shortWrite

/-- ENCODE (R120), its checks in the pseudocode's order. -/
def execEncodeHdr (s : State) : Host.Outcome State Fault Refusal :=
  .next <|
    if 2147483647 < 44 + s.dataLen.toNat then s.raise .lengthOverflow
    else if s.params.strictLayout && unsupported s.hdr.audioFmt s.hdr.bps then s.raise .unsupportedLayout
    else if s.sink.present = false then s.raise .openFailure
    else if s.sink.cap.val < 44 + s.dataLen.toNat then encodeShort s
    else encodeCommit s

end Sys2Proof.Machine
end

