-- ==== Sys2Proof/Machine/Container.lean ====
section
/-! DEFINITION. READ_DATA: the data read at the cursor (R153). -/

namespace Sys2Proof.Machine

/-- READ_DATA (R153), its checks in the pseudocode's order. -/
def execReadData (s : State) : Host.Outcome State Fault Refusal :=
  .next <|
    if s.src.present = false then s.raise .openFailure
    else if s.hdr.dataSize.toInt < 0 ∨ (s.params.dataCap.val : Int) < s.hdr.dataSize.toInt then s.raise .outOfRange
    else
      match s.src.read s.cursor.toNat s.hdr.dataSize.toInt.toNat with
      | none => s.raise .truncatedInput
      | some r =>
        State.complete
          { s with
            ram := Memory.writeBytes s.ram 0 r
            dataLen := BitVec.ofNat 32 s.hdr.dataSize.toInt.toNat
            cursor := BitVec.ofNat 32 (s.cursor.toNat + s.hdr.dataSize.toInt.toNat) }

end Sys2Proof.Machine
end

