-- ==== Sys2Proof/Machine/Control.lean ====
section
/-! DEFINITION. The control commands NOP (R151) and DEFAULT (R152), and the illegal command word (R184). -/

namespace Sys2Proof.Machine

/-- NOP (R151): completion only. -/
def execNop (s : State) : Host.Outcome State Fault Refusal := .next s.complete

/-- The default header template (R152): stereo, 16-bit, PCM, 44100 Hz, little-endian. -/
def defaultHeader : Header where
  ctag := tagRIFF
  fileSize := 44#32
  fmtTag := tagWAVE
  fmtMark := tagFmt
  fmtBlk := 16#32
  audioFmt := 1#16
  channels := 2#16
  sRate := 44100#32
  byteRate := 176400#32
  blkAlign := 4#16
  bps := 16#16
  dataMark := tagData
  dataSize := 0#32

/-- DEFAULT (R152): the default header, an empty Data buffer, CURSOR <- 0. -/
def execLoadDefault (s : State) : Host.Outcome State Fault Refusal :=
  .next (State.complete { s with hdr := defaultHeader, dataLen := 0, cursor := 0 })

/-- An illegal command word raises ILLEGAL_COMMAND with no other effect (R184). -/
def execIllegal (s : State) : Host.Outcome State Fault Refusal := .next (s.raise .illegalCommand)

end Sys2Proof.Machine
end

