-- ==== Sys2Proof/Machine/Packer.lean ====
section
/-! DEFINITION. The sample packer: PACK16 (R154) and PACK32 (R155). -/

namespace Sys2Proof.Machine

/-- Place 4 bytes at PK_INDEX and leave CURSOR = PK_INDEX + 4; OUT_OF_RANGE, with nothing written, when they do not all lie below
DATA_LEN, the sum taken without wrap (R154, R155). -/
def packBytes (s : State) (bs : List Byte) : State :=
  if s.dataLen.toNat < s.pkIndex.toNat + 4 then s.raise .outOfRange
  else
    State.complete
      { s with
        ram := Memory.writeBytes s.ram s.pkIndex.toNat bs
        cursor := BitVec.ofNat 32 (s.pkIndex.toNat + 4) }

/-- The 4 bytes of a PACK16 frame: the s16 sample PK_SAMPLE[15:0] in the header's order, in both channel slots (R154). -/
def frame16 (s : State) : List Byte :=
  let b := enc16 (lowHalf s.pkSample) (resolveOrder s.hdr.ctag)
  b ++ b

/-- The 4 bytes of a PACK32 sample in the header's order (R155). -/
def sample32 (s : State) : List Byte := enc32 s.pkSample (resolveOrder s.hdr.ctag)

/-- PACK16 (R154). -/
def execPack16 (s : State) : Host.Outcome State Fault Refusal := .next (packBytes s (frame16 s))

/-- PACK32 (R155). -/
def execPack32 (s : State) : Host.Outcome State Fault Refusal := .next (packBytes s (sample32 s))

end Sys2Proof.Machine
end

