-- ==== Sys2Proof/Syntax.lean ====
section
/-! DEFINITION. The command set: one constructor per row of spec/opcode_table.json (R87). A command word
carries no operands; operands come from registers (R86). -/

namespace Sys2Proof

/-- The seven commands of the gwave-codec command set, version 1 (R1, R87). -/
inductive Instr where
  /-- NOP, opcode 0x00 (R151). -/
  | nop
  /-- DEFAULT, opcode 0x01 (R152). -/
  | loadDefault
  /-- DECODE, opcode 0x02 (R113). -/
  | decodeHdr
  /-- READ_DATA, opcode 0x03 (R153). -/
  | readData
  /-- ENCODE, opcode 0x04 (R120). -/
  | encodeHdr
  /-- PACK16, opcode 0x05 (R154). -/
  | pack16
  /-- PACK32, opcode 0x06 (R155). -/
  | pack32
  deriving DecidableEq, Repr

end Sys2Proof
end

