-- ==== Sys2Proof/Machine/Dispatch.lean ====
section
/-! DEFINITION. The dispatch: one arm per command (R45 point 1, R87). -/

namespace Sys2Proof.Machine

def exec (i : Instr) (s : State) : Host.Outcome State Fault Refusal :=
  match i with
  | .nop => Sys2Proof.Machine.execNop s
  | .loadDefault => Sys2Proof.Machine.execLoadDefault s
  | .decodeHdr => Sys2Proof.Machine.execDecodeHdr s
  | .readData => Sys2Proof.Machine.execReadData s
  | .encodeHdr => Sys2Proof.Machine.execEncodeHdr s
  | .pack16 => Sys2Proof.Machine.execPack16 s
  | .pack32 => Sys2Proof.Machine.execPack32 s

end Sys2Proof.Machine
end

