-- ==== Sys2Proof/WellFormed.lean ====
section
/-! DEFINITION. What a well-formed command word, command and host operation are. -/

namespace Sys2Proof

/-- A command has no operand field (R86), so every command is well formed. -/
def Instr.wf (_ : Instr) : Bool := true

/-- A legal command word: RSVD = 0 and OP in 0x00 to 0x06 (R87, R88). -/
def commandWordWf (w : Word) : Bool :=
  w.extractLsb' 8 24 == 0#24 && decide (w.extractLsb' 0 8 ≤ 6#8)

namespace Machine

/-- A register-port access the model does not refuse: 32 bits wide, at a multiple of 4 from 0x00 to 0xFC (R23). -/
def registerAccessWf (width offset : Nat) : Bool :=
  decide (width = 32) && decide (offset % 4 = 0) && decide (offset ≤ 0xFC)

/-- A host operation of the right form: a legal register access (R23), a source shorter than 2^32 bytes (R5). -/
def HostOp.wf : HostOp → Bool
  | .regWrite width offset _ => registerAccessWf width offset
  | .regRead width offset => registerAccessWf width offset
  | .presentSource _ bytes => decide (bytes.length < 4294967296)
  | .dataWrite _ _ | .dataRead _ | .poll | .stopOnErr | .reset | .presentSink _ _ _ | .connect | .readSink => true

end Machine

end Sys2Proof
end

