-- ==== Sys2Proof/Decode.lean ====
section
/-! DEFINITION. Decoding and encoding of the 32-bit command word (R86, R87, R88): bits [7:0] the opcode OP,
bits [31:8] RSVD, which must be 0. -/

namespace Sys2Proof

/-- Why a word selects no command (R88). -/
inductive DecodeError where
  /-- RSVD, bits [31:8], is not 0. -/
  | reservedBits
  /-- RSVD is 0 and OP is 0x07 to 0xFF. -/
  | reservedOpcode
  deriving DecidableEq, Repr

/-- The OP field, bits [7:0] (R86). -/
def opField (w : Word) : Byte := w.extractLsb' 0 8

/-- The RSVD field, bits [31:8] (R86). -/
def rsvdField (w : Word) : BitVec 24 := w.extractLsb' 8 24

/-- The opcode map (R87). -/
def opcodeInstr (op : Nat) : Except DecodeError Instr :=
  match op with
  | 0x00 => .ok .nop
  | 0x01 => .ok .loadDefault
  | 0x02 => .ok .decodeHdr
  | 0x03 => .ok .readData
  | 0x04 => .ok .encodeHdr
  | 0x05 => .ok .pack16
  | 0x06 => .ok .pack32
  | _ => .error .reservedOpcode

/-- The command a latched word selects, or why it is illegal (R87, R88). -/
def decodeWord (w : Word) : Except DecodeError Instr :=
  if rsvdField w = 0#24 then opcodeInstr (opField w).toNat else .error .reservedBits

/-- The opcode of a command (R87, column OP). -/
def opcodeOf (i : Instr) : Byte :=
  match i with
  | .nop => 0x00#8
  | .loadDefault => 0x01#8
  | .decodeHdr => 0x02#8
  | .readData => 0x03#8
  | .encodeHdr => 0x04#8
  | .pack16 => 0x05#8
  | .pack32 => 0x06#8

/-- The full word of a command, 0x000000OP (R87). -/
def encode (i : Instr) : Word := 0#24 ++ opcodeOf i

/-- The command the decoder reads from a table word of `nbits` bits, every bit above them 0. The register port
takes the word as one 32-bit value and has no byte order (R66), so no byte layout stands between. -/
def decodeTableWord (nbits w : Nat) : Option Instr :=
  if w % 2 ^ nbits < 4294967296 then
    match decodeWord (BitVec.ofNat 32 (w % 2 ^ nbits)) with
    | .ok i => some i
    | .error _ => none
  else none

end Sys2Proof
end

