-- ==== Sys2Proof/Machine/HostPort.lean ====
section
/-! DEFINITION. The host agent's operations on the block (R20, R23, R214 to R216, R223): the register port, the data port, reset, and the
resources; and the pseudo-instructions of host programs (R91, R92). -/

namespace Sys2Proof.Machine

/-- A register-port write (R23, R214). A refused access records HOST_BAD_ACCESS and a write while BUSY = 1 records HOST_HAZARD; the
write itself then does not happen (log entry 7). -/
def hostRegWrite (s : State) (width offset : Nat) (v : Word) : State :=
  match regAt width offset with
  | none => s.record .hostBadAccess
  | some r => if s.status.busy then s.record .hostHazard else writeReg s r v

/-- A register-port read (R23, R216): while BUSY = 1 every register but STATUS reads as a fresh draw. A refused access records
HOST_BAD_ACCESS and gives the host a draw. -/
def hostRegRead (s : State) (width offset : Nat) : State :=
  match regAt width offset with
  | none => (s.record .hostBadAccess).respondFreeWord
  | some r => if s.status.busy = true ∧ r ≠ .status then s.respondFreeWord else s.respond (.word (readReg s r))

/-- A data-port write (R42), HOST_HAZARD while BUSY = 1 (R214). -/
def hostDataWrite (s : State) (i : Nat) (b : Byte) : State :=
  if s.status.busy then s.record .hostHazard else dataPortWrite s i b

/-- A data-port read (R42), HOST_HAZARD while BUSY = 1 (R214), when the host gets a draw. -/
def hostDataRead (s : State) (i : Nat) : State :=
  if s.status.busy then (s.record .hostHazard).respondFreeByte else s.respond (.byte (dataPortRead s i))

/-- One read of STATUS; while it shows BUSY = 1 the POLL is still to do (R91). -/
def hostPoll (s : State) : State :=
  let t := s.respond (.word (statusWord s.status))
  if s.status.busy then { t with host := .poll :: t.host } else t

/-- The conditional stop of LOAD (R92): one read of STATUS; ERR = 1 ends the host program. -/
def hostStopOnErr (s : State) : State :=
  let t := s.respond (.word (statusWord s.status))
  if s.status.err then { t with host := [] } else t

/-- Whether an ENCODE is latched and not yet executed (R211). -/
def encodePending (s : State) : Bool :=
  s.status.busy && (match decodeWord s.latched with
    | .ok .encodeHdr => true
    | _ => false)

/-- The sink after a reset: untouched (R210), but unspecified in the bytes a discarded ENCODE may have begun to write (R211): the first of
the two draws of a reset. -/
def sinkAfterReset (s : State) : Sink :=
  if encodePending s then s.sink.scramble (min (44 + s.dataLen.toNat) s.sink.cap.val) s.draws else s.sink

/-- Reset (R210, R211): registers, header and latched command at their reset values, the RAM's contents unspecified, a pending command
discarded; the source, the sink and the fault set stay, and so does the host's program. The sink and the RAM take a draw each, so nothing
relates their unspecified bytes (log entries 3, 5 and 8). -/
def hostReset (s : State) : State :=
  { s with
    status := Status.reset
    cursor := 0
    dataLen := 0
    pkIndex := 0
    pkSample := 0
    hdr := Header.reset
    ram := Memory.unspecified s.params.dataCap.val (s.draws + 1)
    latched := 0
    sink := sinkAfterReset s
    engineDelay := 0
    draws := s.draws + 2 }

/-- Provide a source (R43, R223): not while BUSY = 1 (R78), and shorter than 2^32 bytes (R5). -/
def hostPresentSource (s : State) (present : Bool) (bytes : List Byte) : Host.Outcome State Fault Refusal :=
  if 4294967296 ≤ bytes.length then .refused .sourceTooLong
  else refuseWhileBusy s { s with source := ⟨present, bytes⟩, shared := false }

/-- Provide a sink (R44, R223): not while BUSY = 1 (R78). The source port keeps the resource it had (R77). -/
def hostPresentSink (s : State) (present : Bool) (cap : Fin 4294967296) (bytes : List Byte) : Host.Outcome State Fault Refusal :=
  refuseWhileBusy s { s with sink := ⟨present, cap, bytes⟩, source := s.src, shared := false }

/-- Connect both ports to the sink's resource (R77): between commands only, and SRC_LEN = DST_LEN must be below 2^32 (R5). -/
def hostConnect (s : State) : Host.Outcome State Fault Refusal :=
  if 4294967296 ≤ s.sink.bytes.length then .refused .sourceTooLong
  else refuseWhileBusy s { s with shared := true }

/-- Read the sink's bytes back (R222, R223): not while BUSY = 1 (R215). -/
def hostReadSink (s : State) : Host.Outcome State Fault Refusal :=
  refuseWhileBusy s (s.respond (.sinkBytes s.sink.bytes))

/-- One host operation on the block. -/
def runHostOp (op : HostOp) (s : State) : Host.Outcome State Fault Refusal :=
  match op with
  | .regWrite width offset v => .next (hostRegWrite s width offset v)
  | .regRead width offset => .next (hostRegRead s width offset)
  | .dataWrite i b => .next (hostDataWrite s i b)
  | .dataRead i => .next (hostDataRead s i)
  | .poll => .next (hostPoll s)
  | .stopOnErr => .next (hostStopOnErr s)
  | .reset => .next (hostReset s)
  | .presentSource present bytes => hostPresentSource s present bytes
  | .presentSink present cap bytes => hostPresentSink s present cap bytes
  | .connect => hostConnect s
  | .readSink => hostReadSink s

/-- `WR <reg>, <value>` at the register's offset (R91). -/
def opWr (offset : Nat) (v : Word) : HostOp := .regWrite 32 offset v

/-- `RD <reg>` at the register's offset (R91). -/
def opRd (offset : Nat) : HostOp := .regRead 32 offset

/-- `CMD <mnemonic>`: a write of the command word to CMD, offset 0x00 (R91). -/
def opCmd (i : Instr) : HostOp := .regWrite 32 0x00 (encode i)

/-- `LOAD` (R92). -/
def progLoad : List HostOp := [opCmd .decodeHdr, .poll, .stopOnErr, opCmd .readData, .poll]

/-- `SAVE` (R92). -/
def progSave : List HostOp := [opCmd .encodeHdr, .poll]

/-- `TONE v, s` (R92): v in PK_SAMPLE, s in PK_INDEX. -/
def progTone (v s : Word) : List HostOp := [opWr 0x14 v, opWr 0x10 s, opCmd .pack16, .poll]

/-- `BUILD_DEFAULT` (R92). -/
def progBuildDefault : List HostOp := [opCmd .loadDefault, .poll]

end Sys2Proof.Machine
end

