-- ==== Sys2Proof/Machine/Engine.lean ====
section
/-! DEFINITION. The two agents' turns (R20): which agent moves, the engine's step on the latched command (R45), the host's next
operation, and an idle block. -/

namespace Sys2Proof.Machine

/-- The word the engine executes: the latched command (R45). -/
def fetchWord (s : State) : Word := s.latched

/-- Whether the engine moves: it has a step only while BUSY = 1 (R20), and takes it once the drawn number of host steps has passed, or
when the host has nothing left to do (R221, log entry 4). -/
def engineMoves (s : State) : Bool := s.status.busy && (s.host.isEmpty || s.engineDelay == 0)

/-- The engine's step (R45): the command the latched word selects, or the illegal-command rule (R184). -/
def engineTurn (s : State) : Host.Outcome State Fault Refusal :=
  match decodeWord (fetchWord s) with
  | .ok i => exec i s
  | .error _ => execIllegal s

/-- The host's step: its next operation; with none left the block is idle and nothing changes (R223). -/
def hostTurn (s : State) : Host.Outcome State Fault Refusal :=
  match s.host with
  | [] => .next s
  | op :: rest => runHostOp op { s with host := rest, engineDelay := s.engineDelay - 1 }

/-- `s` with the command word `w` latched as a CMD write latches it (R24), the engine's step due next. -/
def latchNext (s : State) (w : Word) : State := { s.latch w with engineDelay := 0 }

end Sys2Proof.Machine
end

