-- ==== Sys2Proof/Machine/Step.lean ====
section
/-! DEFINITION. One step of the machine: the engine's or the host's (R20), in one total order (R73). -/

namespace Sys2Proof.Machine

/-- One step: the engine's where it moves, otherwise the host's (R20). -/
def step (s : State) : Host.Outcome State Fault Refusal :=
  if engineMoves s then engineTurn s else hostTurn s

/-- `s` with a command word of `nbits` bits, every bit above them 0, where the engine takes its next command from: the latch (R45). -/
def State.withFetchWord (s : State) (nbits w : Nat) : State :=
  latchNext s (BitVec.ofNat 32 (w % 2 ^ nbits))

end Sys2Proof.Machine
end

