-- ==== Sys2Proof/Safety.lean ====
section
/-! DEFINITION. What claims are stated in: the invariant of the machine, a run that ends well and what is then observable (R222), and
the start of a launch (R224). -/

namespace Sys2Proof.Machine

/-- STATUS when a command completes without error: BUSY = 0, DONE = 1 (R45). -/
def completed (t : Status) : Status := { t with busy := false, done := true }

/-- STATUS when a command raises `e` (R181, R45). -/
def failed (t : Status) (e : ErrCode) : Status :=
  { busy := false, done := true, err := true, errcode := e, sticky := true, lastop := t.lastop }

/-- The byte order of a source: by its byte at offset 3 (R61, R65). -/
def sourceOrder (bs : List Byte) : ByteOrder := if bs.getD 3 0 = 0x46#8 then .le else .be

/-- fmtBlockSize of a source: bytes 16..19 (R81). -/
def sourceFmtBlk (bs : List Byte) : Word := dec32 bs 16 (sourceOrder bs)

/-- The header of a source by the offsets of its layout, with B its fmtBlockSize (R81). -/
def sourceHeader (bs : List Byte) (b : Nat) : Header where
  ctag := tagAt bs 0
  fileSize := dec32 bs 4 (sourceOrder bs)
  fmtTag := tagAt bs 8
  fmtMark := tagAt bs 12
  fmtBlk := dec32 bs 16 (sourceOrder bs)
  audioFmt := dec16 bs 20 (sourceOrder bs)
  channels := dec16 bs 22 (sourceOrder bs)
  sRate := dec32 bs 24 (sourceOrder bs)
  byteRate := dec32 bs 28 (sourceOrder bs)
  blkAlign := dec16 bs 32 (sourceOrder bs)
  bps := dec16 bs 34 (sourceOrder bs)
  dataMark := tagAt bs (20 + b)
  dataSize := dec32 bs (24 + b) (sourceOrder bs)

/-- The Data buffer holds together: DATA_LEN ≤ DATA_CAP (R27); the RAM is canonical and has no byte at or above DATA_CAP (R42). -/
def dataOk (s : State) : Prop :=
  s.dataLen.toNat ≤ s.params.dataCap.val ∧ Memory.wf s.ram ∧ Memory.below s.ram s.params.dataCap.val

/-- STATUS holds together (R24, R25, R45, R181): BUSY and DONE are never both 1; ERR only with DONE and STICKY; ERRCODE is 0 exactly
when ERR is 0; LASTOP is the latched command's low byte. -/
def statusOk (s : State) : Prop :=
  (s.status.busy = true → s.status.done = false) ∧
  (s.status.err = true → s.status.done = true ∧ s.status.sticky = true) ∧
  (s.status.err = false ↔ s.status.errcode = .none) ∧
  s.status.lastop = opField s.latched

/-- SRC_LEN < 2^32 (R5). -/
def sourceOk (s : State) : Prop := s.src.bytes.length < 4294967296

/-- The invariant of the machine. -/
def MachineInv (s : State) : Prop := dataOk s ∧ statusOk s ∧ sourceOk s

/-- The three conditions of R222 on a state: the host has executed its last operation, BUSY = 0, and the fault set is empty. On a run they
are asked of the state its last host operation leaves, by `runEndsWell`. -/
def endConditions (s : State) : Bool :=
  s.host.isEmpty && !s.status.busy && s.faults == ⟨false, false⟩

/-- The state in which, within `n` steps from `s`, the host has just executed its last operation; none where it has not by then, or where a
step before it is refused. -/
def lastHostState (n : Nat) (s : State) : Option State :=
  match n with
  | 0 => if s.host.isEmpty then some s else none
  | k + 1 =>
    if s.host.isEmpty then some s
    else
      match step s with
      | .next t => lastHostState k t
      | .fault _ => none
      | .refused _ => none

/-- A run has ended well within `n` steps (R222): its last host operation left BUSY = 0 and an empty fault set. A run whose last host operation
left BUSY = 1 has not, although the engine still completes the command afterwards. -/
def runEndsWell (n : Nat) (s : State) : Bool :=
  match lastHostState n s with
  | some t => endConditions t
  | none => false

/-- What a run that ended well shows (R222): every register as the host reads it, DATA[0 .. DATA_LEN−1], and the sink's bytes,
whose number is DST_LEN. -/
structure Observed where
  registers : List Word
  data : List Byte
  sink : List Byte
  deriving DecidableEq, Repr

/-- The observable result (R222). -/
def observe (s : State) : Observed where
  registers := (List.range 64).map fun n => readReg s (regOfWord n)
  data := Memory.readBytes s.ram 0 s.dataLen.toNat
  sink := s.sink.bytes

/-- The observable result of a run, where it has ended well within `n` steps (R222). -/
def runResult (n : Nat) (s : State) : Option Observed :=
  match lastHostState n s with
  | some t => if endConditions t then some (observe t) else none
  | none => none

/-- The start of a launch (R224): the reset state with the launch's parameters, source, sink and host program. -/
def launch (p : Params) (source : Source) (sink : Sink) (program : List HostOp) : State :=
  { State.reset with params := p, source := source, sink := sink, host := program }

end Sys2Proof.Machine
end

