-- ==== Sys2Proof/Certificates/Slice0/Obligations.lean ====
section
/-! DEFINITION. The statements for the provers, each formalising a rule of spec/ (named in its docstring). `completed` and `failed`
(Safety.lean) are STATUS after completion (R45) and after `raise` (R181). -/

open Sys2Proof Sys2Proof.Machine

/-! ### Encoding and the engine's step -/

/-- R45, R184: while BUSY = 1 the engine's step runs the command the latched word selects, exactly exec of it, and an illegal word raises
ILLEGAL_COMMAND. Which agent moves first while the host still has operations is the model's choice (log entry 4). -/
def Obligations.StepRunsTheLatchedCommand : Prop :=
  ∀ s : State, s.status.busy = true → (s.host = [] ∨ s.engineDelay = 0) →
    (∀ i, decodeWord s.latched = .ok i → i.wf = true → step s = exec i s) ∧
    (∀ e, decodeWord s.latched = .error e → step s = .next { s with status := failed s.status .illegalCommand })

/-- R20, R73: when the engine does not move, the step is the host's next operation, on the state with that operation taken off its
program. The count of host steps before the engine's (log entry 4) and the program as a list in State (log entry 15) are the model's choice. -/
def Obligations.StepRunsTheHostsOperation : Prop :=
  ∀ (s : State) (op : HostOp) (rest : List HostOp), s.host = op :: rest →
    (s.status.busy = false ∨ s.engineDelay ≠ 0) →
    step s = runHostOp op { s with host := rest, engineDelay := s.engineDelay - 1 }

/-- R45, R24: a word placed with withFetchWord is the command the very next step runs. -/
def Obligations.PlacedWordRunsNext : Prop :=
  ∀ (s : State) (i : Instr),
    step (s.withFetchWord 32 (encode i).toNat) =
      exec i { s with
        latched := encode i
        status := { s.status with busy := true, done := false, err := false, errcode := .none, lastop := opcodeOf i }
        engineDelay := 0 }

/-- R86, R87, R88: words written out from the opcode map. -/
def Obligations.WrittenWordsDecode : Prop :=
  decodeWord 0x00000000#32 = .ok .nop ∧ decodeWord 0x00000001#32 = .ok .loadDefault ∧
  decodeWord 0x00000002#32 = .ok .decodeHdr ∧ decodeWord 0x00000003#32 = .ok .readData ∧
  decodeWord 0x00000004#32 = .ok .encodeHdr ∧ decodeWord 0x00000005#32 = .ok .pack16 ∧
  decodeWord 0x00000006#32 = .ok .pack32 ∧ decodeWord 0x00000007#32 = .error .reservedOpcode ∧
  decodeWord 0x000000FF#32 = .error .reservedOpcode ∧ decodeWord 0x00000102#32 = .error .reservedBits ∧
  decodeWord 0x80000001#32 = .error .reservedBits

/-- R87: over all 2^32 words, each command is selected by its own word 0x000000OP and by no other. -/
def Obligations.EachCommandHasExactlyItsWord : Prop :=
  ∀ w : Word,
    (decodeWord w = .ok .nop ↔ w = 0x00000000#32) ∧
    (decodeWord w = .ok .loadDefault ↔ w = 0x00000001#32) ∧
    (decodeWord w = .ok .decodeHdr ↔ w = 0x00000002#32) ∧
    (decodeWord w = .ok .readData ↔ w = 0x00000003#32) ∧
    (decodeWord w = .ok .encodeHdr ↔ w = 0x00000004#32) ∧
    (decodeWord w = .ok .pack16 ↔ w = 0x00000005#32) ∧
    (decodeWord w = .ok .pack32 ↔ w = 0x00000006#32)

/-- R88: a word is illegal exactly when RSVD ≠ 0 or OP is 0x07 to 0xFF. -/
def Obligations.IllegalWordsAreReservedOnes : Prop :=
  ∀ w : Word, (∃ e, decodeWord w = .error e) ↔ (w.extractLsb' 8 24 ≠ 0#24 ∨ 7 ≤ (w.extractLsb' 0 8).toNat)

/-- R184, R88: the engine's step on an illegal word changes STATUS alone, and LASTOP shows w[7:0]. -/
def Obligations.IllegalWordRaisesIllegalCommand : Prop :=
  ∀ s : State, MachineInv s → s.status.busy = true → (s.host = [] ∨ s.engineDelay = 0) →
    (s.latched.extractLsb' 8 24 ≠ 0#24 ∨ 7 ≤ (s.latched.extractLsb' 0 8).toNat) →
    step s = .next { s with status :=
      { busy := false, done := true, err := true, errcode := .illegalCommand, sticky := true, lastop := s.latched.extractLsb' 0 8 } }

/-- R86, R87: decoding the encoded word of a well-formed command gives the command, through the table's numbering of the bits too. -/
def Obligations.DecodeOfEncodeIsTheCommand : Prop :=
  ∀ i : Instr, i.wf = true → decodeWord (encode i) = .ok i ∧ decodeTableWord 32 (encode i).toNat = some i

/-! ### Byte order, tags, combinational functions -/

/-- R8: the bytes of enc_N in each order, dec_N its inverse both ways, and the source's own check of 44100. -/
def Obligations.ByteOrderPrimitivesInvert : Prop :=
  (∀ v : Half, ∀ i, i < 2 →
    (enc16 v .le).getD i 0 = v.extractLsb' (8 * i) 8 ∧ (enc16 v .be).getD i 0 = v.extractLsb' (8 * (1 - i)) 8) ∧
  (∀ v : Word, ∀ i, i < 4 →
    (enc32 v .le).getD i 0 = v.extractLsb' (8 * i) 8 ∧ (enc32 v .be).getD i 0 = v.extractLsb' (8 * (3 - i)) 8) ∧
  (∀ (v : Half) (ord : ByteOrder), (enc16 v ord).length = 2 ∧ dec16 (enc16 v ord) 0 ord = v) ∧
  (∀ (v : Word) (ord : ByteOrder), (enc32 v ord).length = 4 ∧ dec32 (enc32 v ord) 0 ord = v) ∧
  (∀ (bs : List Byte) (ord : ByteOrder), bs.length = 2 → enc16 (dec16 bs 0 ord) ord = bs) ∧
  (∀ (bs : List Byte) (ord : ByteOrder), bs.length = 4 → enc32 (dec32 bs 0 ord) ord = bs) ∧
  enc32 44100#32 .le = [0x44, 0xAC, 0x00, 0x00] ∧ enc32 44100#32 .be = [0x00, 0x00, 0xAC, 0x44]

/-- R61: LE exactly when t[3] = 0x46, BE for every other byte value. -/
def Obligations.FourthByteResolvesTheOrder : Prop :=
  ∀ t : Tag, (t.b3 = 0x46#8 → resolveOrder t = .le) ∧ (t.b3 ≠ 0x46#8 → resolveOrder t = .be)

/-- R36: byte k of a tag is at register bits [8k+7:8k], the view and its inverse agree, the four tag registers read through it, and the five
named tags have their values. -/
def Obligations.TagRegisterViewIsFileOrder : Prop :=
  (∀ t : Tag, (tagToReg t).extractLsb' 0 8 = t.b0 ∧ (tagToReg t).extractLsb' 8 8 = t.b1 ∧
    (tagToReg t).extractLsb' 16 8 = t.b2 ∧ (tagToReg t).extractLsb' 24 8 = t.b3 ∧ tagOfReg (tagToReg t) = t) ∧
  (∀ w : Word, tagToReg (tagOfReg w) = w) ∧
  (∀ s : State, readReg s .hCtag = tagToReg s.hdr.ctag ∧ readReg s .hFmtTag = tagToReg s.hdr.fmtTag ∧
    readReg s .hFmtMark = tagToReg s.hdr.fmtMark ∧ readReg s .hDataMark = tagToReg s.hdr.dataMark) ∧
  tagToReg tagRIFF = 0x46464952#32 ∧ tagToReg tagRIFX = 0x58464952#32 ∧ tagToReg tagWAVE = 0x45564157#32 ∧
  tagToReg tagFmt = 0x20746D66#32 ∧ tagToReg tagData = 0x61746164#32

/-- R110: the sample width in bytes, and INFO.SWIDTH shows it. -/
def Obligations.SampleWidthMapping : Prop :=
  (∀ bps : Half,
    (bps.toInt = 8 → sampleWidth bps = 1) ∧ (bps.toInt = 16 → sampleWidth bps = 2) ∧
    (bps.toInt ≠ 8 → bps.toInt ≠ 16 → sampleWidth bps = 4)) ∧
  (∀ s : State, (readReg s .info).extractLsb' 4 4 = BitVec.ofNat 4 (sampleWidth s.hdr.bps))

/-- R30, R61, R110, R111, R112: every field of INFO from the header registers, bit by bit, and its value from the reset header. -/
def Obligations.InfoRegisterFields : Prop :=
  (∀ s : State,
    (readReg s .info).extractLsb' 0 1 = (if s.hdr.ctag.b3 = 0x46#8 then 0#1 else 1#1) ∧
    (readReg s .info).extractLsb' 1 3 = 0#3 ∧
    (readReg s .info).extractLsb' 4 4 =
      (if s.hdr.bps = 8#16 then 1#4 else if s.hdr.bps = 16#16 then 2#4 else 4#4) ∧
    (readReg s .info).extractLsb' 8 1 =
      (if s.hdr.audioFmt = 1#16 ∧ (s.hdr.bps = 8#16 ∨ s.hdr.bps = 16#16 ∨ s.hdr.bps = 32#16) then 0#1 else 1#1) ∧
    (readReg s .info).extractLsb' 9 1 =
      (if (readReg s .hCtag = 0x46464952#32 ∨ readReg s .hCtag = 0x58464952#32) ∧ readReg s .hFmtTag = 0x45564157#32 ∧
          readReg s .hFmtMark = 0x20746D66#32 ∧ readReg s .hDataMark = 0x61746164#32 then 0#1 else 1#1) ∧
    (readReg s .info).extractLsb' 10 1 = (if 16 < s.hdr.fmtBlk.toInt then 1#1 else 0#1) ∧
    (readReg s .info).extractLsb' 11 21 = 0#21 ∧
    (∀ v, writeReg s .info v = s)) ∧
  readReg State.reset .info = 0x00000341#32

/-- R25, R180: every field of the STATUS word at its bits, the reserved bits 0, the number of every error code, and 0x00000000 at reset. -/
def Obligations.StatusRegisterFields : Prop :=
  (∀ s : State,
    (readReg s .status).extractLsb' 0 1 = BitVec.ofBool s.status.busy ∧
    (readReg s .status).extractLsb' 1 1 = BitVec.ofBool s.status.done ∧
    (readReg s .status).extractLsb' 2 1 = BitVec.ofBool s.status.err ∧
    (readReg s .status).extractLsb' 3 1 = 0#1 ∧
    (readReg s .status).extractLsb' 4 4 = errNumber s.status.errcode ∧
    (readReg s .status).extractLsb' 8 1 = BitVec.ofBool s.status.sticky ∧
    (readReg s .status).extractLsb' 9 7 = 0#7 ∧
    (readReg s .status).extractLsb' 16 8 = s.status.lastop ∧
    (readReg s .status).extractLsb' 24 8 = 0#8) ∧
  errNumber .none = 0x0#4 ∧ errNumber .openFailure = 0x1#4 ∧ errNumber .truncatedInput = 0x2#4 ∧ errNumber .shortWrite = 0x3#4 ∧
  errNumber .unsupportedLayout = 0x4#4 ∧ errNumber .outOfRange = 0x5#4 ∧ errNumber .lengthOverflow = 0x6#4 ∧
  errNumber .illegalCommand = 0x7#4 ∧
  readReg State.reset .status = 0x00000000#32

/-! ### The register port -/

/-- R22: the offset of every register of the map, and every reserved offset. -/
def Obligations.RegisterMapOffsets : Prop :=
  regAt 32 0x00 = some .cmd ∧ regAt 32 0x04 = some .status ∧ regAt 32 0x08 = some .cursor ∧ regAt 32 0x0C = some .dataLen ∧
  regAt 32 0x10 = some .pkIndex ∧ regAt 32 0x14 = some .pkSample ∧ regAt 32 0x18 = some .info ∧ regAt 32 0x1C = some .config ∧
  regAt 32 0x20 = some .hCtag ∧ regAt 32 0x24 = some .hFileSize ∧ regAt 32 0x28 = some .hFmtTag ∧ regAt 32 0x2C = some .hFmtMark ∧
  regAt 32 0x30 = some .hFmtBlk ∧ regAt 32 0x34 = some .hAudioFmt ∧ regAt 32 0x38 = some .hChannels ∧ regAt 32 0x3C = some .hSRate ∧
  regAt 32 0x40 = some .hByteRate ∧ regAt 32 0x44 = some .hBlkAlign ∧ regAt 32 0x48 = some .hBps ∧ regAt 32 0x4C = some .hDataMark ∧
  regAt 32 0x50 = some .hDataSize ∧ regAt 32 0x54 = some .dataCap ∧
  (∀ n, 0x58 ≤ n → n ≤ 0xFC → n % 4 = 0 → regAt 32 n = some .reserved)

/-- R23: an access of another width, at a misaligned offset or above 0xFC records HOST_BAD_ACCESS and changes no register; that the host gets
back a fresh free word from a read is the model's choice (log entries 3 and 7). -/
def Obligations.RefusedAccessIsRecorded : Prop :=
  ∀ (s : State) (width offset : Nat) (v : Word), (width ≠ 32 ∨ offset % 4 ≠ 0 ∨ 0xFC < offset) →
    runHostOp (.regWrite width offset v) s = .next { s with faults := { s.faults with hostBadAccess := true } } ∧
    runHostOp (.regRead width offset) s = .next { s with
      faults := { s.faults with hostBadAccess := true }, response := .word (Config.freeWord s.draws), draws := s.draws + 1 }

/-- R24: a CMD write while BUSY = 0 issues the command and changes nothing else of the block, and CMD reads 0; while BUSY = 1 the write is a
host hazard. That the count of host steps before the engine's is a free number drawn here is the model's choice (log entries 3 and 4), and so
is that a hazard changes nothing else (log entry 7). -/
def Obligations.CommandWriteIssues : Prop :=
  ∀ (s : State) (w : Word),
    (s.status.busy = false →
      runHostOp (.regWrite 32 0x00 w) s = .next { s with
        latched := w
        status := { busy := true, done := false, err := false, errcode := .none, sticky := s.status.sticky, lastop := w.extractLsb' 0 8 }
        engineDelay := Config.freeNat s.draws
        draws := s.draws + 1 } ∧
      runHostOp (.regRead 32 0x00) s = .next { s with response := .word 0x00000000#32 }) ∧
    (s.status.busy = true →
      runHostOp (.regWrite 32 0x00 w) s = .next { s with faults := { s.faults with hostHazard := true } })

/-- R27, R22: a DATA_LEN write up to DATA_CAP zero-fills the growth and leaves every other byte of the RAM; a larger value has no effect; and a
read of DATA_LEN gives the register. -/
def Obligations.DataLenWriteZeroFills : Prop :=
  ∀ (s : State) (v : Word), s.status.busy = false →
    (v.toNat ≤ s.params.dataCap.val →
      ∃ m, runHostOp (.regWrite 32 0x0C v) s = .next { s with ram := m, dataLen := v } ∧
        ∀ a, Memory.read m a = if s.dataLen.toNat ≤ a ∧ a < v.toNat then 0 else Memory.read s.ram a) ∧
    (s.params.dataCap.val < v.toNat → runHostOp (.regWrite 32 0x0C v) s = .next s) ∧
    runHostOp (.regRead 32 0x0C) s = .next { s with response := .word s.dataLen }

/-- R33, R26, R31, R32: a write to a read-only register or a reserved offset changes nothing, a reserved offset reads 0, CURSOR reads as
stored, CONFIG and DATA_CAP read the parameters. -/
def Obligations.ReadOnlyRegistersIgnoreWrites : Prop :=
  ∀ s : State, s.status.busy = false →
    (∀ offset v, (offset = 0x04 ∨ offset = 0x08 ∨ offset = 0x18 ∨ offset = 0x1C ∨ offset = 0x54 ∨
        (0x58 ≤ offset ∧ offset ≤ 0xFC ∧ offset % 4 = 0)) →
      runHostOp (.regWrite 32 offset v) s = .next s) ∧
    (∀ offset, 0x58 ≤ offset → offset ≤ 0xFC → offset % 4 = 0 →
      runHostOp (.regRead 32 offset) s = .next { s with response := .word 0x00000000#32 }) ∧
    runHostOp (.regRead 32 0x08) s = .next { s with response := .word s.cursor } ∧
    runHostOp (.regRead 32 0x1C) s =
      .next { s with response := .word (if s.params.strictLayout then 1#32 else 0#32) } ∧
    runHostOp (.regRead 32 0x54) s = .next { s with response := .word (BitVec.ofNat 32 s.params.dataCap.val) }

/-- R36, R37, R38, R39, R28, R29: while BUSY = 0 a write to a header register, PK_INDEX or PK_SAMPLE is stored at once and reads back: whole
for a 32-bit or tag register, bits [15:0] zero-extended for a 16-bit one. -/
def Obligations.WrittenRegisterReadsBack : Prop :=
  ∀ (s : State) (offset : Nat) (v : Word), s.status.busy = false →
    (offset ∈ [0x10, 0x14, 0x20, 0x24, 0x28, 0x2C, 0x30, 0x3C, 0x40, 0x4C, 0x50] →
      ∃ t, runHostOp (.regWrite 32 offset v) s = .next t ∧
        runHostOp (.regRead 32 offset) t = .next { t with response := .word v }) ∧
    (offset ∈ [0x34, 0x38, 0x44, 0x48] →
      ∃ t, runHostOp (.regWrite 32 offset v) s = .next t ∧
        runHostOp (.regRead 32 offset) t = .next { t with response := .word (BitVec.ofNat 32 (v.toNat % 65536)) })

/-- R39: a write to a header register, PK_INDEX or PK_SAMPLE changes that register alone: every other register but the derived INFO reads as
before, and so does everything that is no register. -/
def Obligations.RegisterWriteFrame : Prop :=
  ∀ (s : State) (offset other : Nat) (v : Word) (r q : Reg), s.status.busy = false →
    offset ∈ [0x10, 0x14, 0x20, 0x24, 0x28, 0x2C, 0x30, 0x34, 0x38, 0x3C, 0x40, 0x44, 0x48, 0x4C, 0x50] →
    regAt 32 offset = some r → regAt 32 other = some q → q ≠ r → q ≠ .info →
    ∃ t, runHostOp (.regWrite 32 offset v) s = .next t ∧ readReg t q = readReg s q ∧
      t = { s with hdr := t.hdr, pkIndex := t.pkIndex, pkSample := t.pkSample }

/-- R42: the data port reads DATA[i] below DATA_LEN and 0x00 beyond, and writes DATA[i] below DATA_LEN alone. -/
def Obligations.DataPortStaysBelowDataLen : Prop :=
  ∀ (s : State) (i : Nat) (b : Byte), s.status.busy = false → Memory.wf s.ram →
    runHostOp (.dataRead i) s =
      .next { s with response := .byte (if i < s.dataLen.toNat then Memory.read s.ram i else 0x00#8) } ∧
    (∃ m, runHostOp (.dataWrite i b) s = .next { s with ram := m } ∧
      ∀ a, Memory.read m a = if a = i ∧ i < s.dataLen.toNat then b else Memory.read s.ram a)

/-- R214, R192: while BUSY = 1 a register write and every data-port access record HOST_HAZARD. That such a step changes nothing else of the
block, and gives the host a fresh free byte from a read, is the model's choice (log entries 3 and 7). -/
def Obligations.BusyAccessIsHazard : Prop :=
  ∀ (s : State) (offset i : Nat) (v : Word) (b : Byte), s.status.busy = true → offset % 4 = 0 → offset ≤ 0xFC →
    runHostOp (.regWrite 32 offset v) s = .next { s with faults := { s.faults with hostHazard := true } } ∧
    runHostOp (.dataWrite i b) s = .next { s with faults := { s.faults with hostHazard := true } } ∧
    runHostOp (.dataRead i) s = .next { s with
      faults := { s.faults with hostHazard := true }, response := .byte (Config.freeByte s.draws 0), draws := s.draws + 1 }

/-- R216: while BUSY = 1 a read of STATUS gives STATUS and a read of any other register a fresh free word, the one of the draw the counter
`draws` stands at; neither changes the block. That a fresh draw has this form, a free function of a counter, is the model's choice (log entry
3), as is that R216 and not R71 holds here (log entry 25). While BUSY = 0 every register reads as its rule says. -/
def Obligations.BusyRegisterReads : Prop :=
  ∀ (s : State) (offset : Nat) (r : Reg), regAt 32 offset = some r →
    (s.status.busy = true → r = .status →
      runHostOp (.regRead 32 offset) s = .next { s with response := .word (readReg s .status) } ∧
      (readReg s .status).extractLsb' 0 1 = 1#1) ∧
    (s.status.busy = true → r ≠ .status →
      runHostOp (.regRead 32 offset) s = .next { s with response := .word (Config.freeWord s.draws), draws := s.draws + 1 }) ∧
    (s.status.busy = false → runHostOp (.regRead 32 offset) s = .next { s with response := .word (readReg s r) })

/-- R91, R92: POLL reads STATUS and is still to do while BUSY = 1; LOAD's stop reads STATUS and stops when ERR = 1. That a POLL stays at the head
of the program held in State, and that the stop ends the WHOLE host program, is the model's choice (log entry 15): R92 says stop and not what of. -/
def Obligations.PollRepeatsWhileBusy : Prop :=
  ∀ s : State,
    runHostOp .poll s = .next { s with
      response := .word (readReg s .status), host := if s.status.busy then .poll :: s.host else s.host } ∧
    runHostOp .stopOnErr s = .next { s with
      response := .word (readReg s .status), host := if s.status.err then [] else s.host }

/-- R43, R44, R77, R78, R215: between commands the host provides a source or a sink, connects the ports, or reads the sink; while BUSY = 1 the
spec's model has no such step. That presenting a source or a sink ends a connection, and that the source port keeps its resource when a sink is
presented, is the model's choice (log entry 11): R77 does not say how long a connection lasts. That the missing step is a refusal is log entry 9. -/
def Obligations.ResourcesChangeBetweenCommandsOnly : Prop :=
  ∀ (s : State) (present : Bool) (cap : Fin 4294967296) (bytes : List Byte), bytes.length < 4294967296 →
    s.sink.bytes.length < 4294967296 →
    (s.status.busy = false →
      runHostOp (.presentSource present bytes) s = .next { s with source := ⟨present, bytes⟩, shared := false } ∧
      (∃ t, runHostOp (.presentSink present cap bytes) s = .next t ∧ t.sink = ⟨present, cap, bytes⟩ ∧ t.src = s.src ∧
        t = { s with sink := t.sink, source := t.source, shared := false }) ∧
      (∃ t, runHostOp .connect s = .next t ∧ t.src = ⟨s.sink.present, s.sink.bytes⟩ ∧ t = { s with shared := true }) ∧
      runHostOp .readSink s = .next { s with response := .sinkBytes s.sink.bytes }) ∧
    (s.status.busy = true →
      runHostOp (.presentSource present bytes) s = .refused .resourceWhileBusy ∧
      runHostOp (.presentSink present cap bytes) s = .refused .resourceWhileBusy ∧
      runHostOp .connect s = .refused .resourceWhileBusy ∧
      runHostOp .readSink s = .refused .resourceWhileBusy)

/-! ### The commands -/

/-- R151: NOP completes and changes nothing else. -/
def Obligations.NopCompletesWithoutEffect : Prop :=
  decodeWord 0x00000000#32 = .ok .nop ∧ ∀ s : State, exec .nop s = .next { s with status := completed s.status }

/-- R152, R158: DEFAULT loads the template, as the host reads it, empties the Data buffer, leaves CURSOR = 0, and changes nothing else. -/
def Obligations.DefaultLoadsTheTemplate : Prop :=
  decodeWord 0x00000001#32 = .ok .loadDefault ∧ ∀ s : State, ∃ t, exec .loadDefault s = .next t ∧
    readReg t .hCtag = 0x46464952#32 ∧ readReg t .hFileSize = 0x0000002C#32 ∧ readReg t .hFmtTag = 0x45564157#32 ∧
    readReg t .hFmtMark = 0x20746D66#32 ∧ readReg t .hFmtBlk = 0x00000010#32 ∧ readReg t .hAudioFmt = 0x00000001#32 ∧
    readReg t .hChannels = 0x00000002#32 ∧ readReg t .hSRate = 0x0000AC44#32 ∧ readReg t .hByteRate = 0x0002B110#32 ∧
    readReg t .hBlkAlign = 0x00000004#32 ∧ readReg t .hBps = 0x00000010#32 ∧ readReg t .hDataMark = 0x61746164#32 ∧
    readReg t .hDataSize = 0x00000000#32 ∧ readReg t .info = 0x00000020#32 ∧
    t = { s with hdr := t.hdr, dataLen := 0#32, cursor := 0#32, status := completed s.status }

/-- R113, R116, R81: DECODE on any state, every check in order, the committed header given by the offsets of the layout. The reads of the model
are requests to the source; here everything is said of the source's own bytes. -/
def Obligations.DecodeFollowsTheLayout : Prop :=
  decodeWord 0x00000002#32 = .ok .decodeHdr ∧ ∀ s : State, exec .decodeHdr s = .next (
    if s.src.present = false then
      { s with cursor := 0#32, status := failed s.status .openFailure }
    else if s.src.bytes.length < 4 then
      { s with cursor := 0#32, status := failed s.status .truncatedInput }
    else if s.src.bytes.length < 8 then
      { s with cursor := 4#32, status := failed s.status .truncatedInput }
    else if s.src.bytes.length < 20 then
      { s with cursor := 8#32, status := failed s.status .truncatedInput }
    else if (sourceFmtBlk s.src.bytes).toInt < 16 then
      { s with cursor := 20#32, status := failed s.status .truncatedInput }
    else if s.src.bytes.length < 20 + (sourceFmtBlk s.src.bytes).toInt.toNat then
      { s with cursor := 20#32, status := failed s.status .truncatedInput }
    else if s.src.bytes.length < 28 + (sourceFmtBlk s.src.bytes).toInt.toNat then
      { s with cursor := BitVec.ofNat 32 (20 + (sourceFmtBlk s.src.bytes).toInt.toNat), status := failed s.status .truncatedInput }
    else if s.params.strictLayout = true ∧
        ((dec16 s.src.bytes 20 (sourceOrder s.src.bytes)).toInt ≠ 1 ∨
          ((dec16 s.src.bytes 34 (sourceOrder s.src.bytes)).toInt ≠ 8 ∧ (dec16 s.src.bytes 34 (sourceOrder s.src.bytes)).toInt ≠ 16 ∧
            (dec16 s.src.bytes 34 (sourceOrder s.src.bytes)).toInt ≠ 32)) then
      { s with cursor := BitVec.ofNat 32 (28 + (sourceFmtBlk s.src.bytes).toInt.toNat), status := failed s.status .unsupportedLayout }
    else
      { s with
        hdr := sourceHeader s.src.bytes (sourceFmtBlk s.src.bytes).toInt.toNat
        cursor := BitVec.ofNat 32 (28 + (sourceFmtBlk s.src.bytes).toInt.toNat)
        status := completed s.status })

/-- R81, R113: where DECODE succeeds: a present source that holds 28 + B bytes, B at least 16, and a supported layout under STRICT_LAYOUT. -/
def Obligations.DecodeCommitsTheHeader : Prop :=
  ∀ s : State, s.src.present = true → 16 ≤ (sourceFmtBlk s.src.bytes).toInt →
    28 + (sourceFmtBlk s.src.bytes).toInt.toNat ≤ s.src.bytes.length →
    (s.params.strictLayout = true →
      unsupported (dec16 s.src.bytes 20 (sourceOrder s.src.bytes)) (dec16 s.src.bytes 34 (sourceOrder s.src.bytes)) = false) →
    exec .decodeHdr s = .next { s with
      hdr := sourceHeader s.src.bytes (sourceFmtBlk s.src.bytes).toInt.toNat
      cursor := BitVec.ofNat 32 (28 + (sourceFmtBlk s.src.bytes).toInt.toNat)
      status := completed s.status }

/-- R114: every present source shorter than 44 bytes ends in TRUNCATED_INPUT with the header unchanged, an absent one in OPEN_FAILURE; a DECODE
that does not end in error needed B ≥ 16 and 28 + B ≤ SRC_LEN. -/
def Obligations.ShortSourceIsTruncated : Prop :=
  ∀ s : State,
    (s.src.present = true → s.src.bytes.length < 44 →
      ∃ c, exec .decodeHdr s = .next { s with cursor := c, status := failed s.status .truncatedInput }) ∧
    (s.src.present = false → exec .decodeHdr s = .next { s with cursor := 0#32, status := failed s.status .openFailure }) ∧
    (∀ t, exec .decodeHdr s = .next t → s.status.err = false → t.status.err = false →
      16 ≤ t.hdr.fmtBlk.toInt ∧ 28 + t.hdr.fmtBlk.toInt.toNat ≤ s.src.bytes.length)

/-- R115: the bytes 16 .. B−1 of a padded format block, source offsets 36 .. 19+B, do not matter: two sources of one length that agree everywhere
else leave the same header, CURSOR and STATUS; and a commit with B > 16 keeps B in H_FMTBLK and shows EXTFMT = 1. -/
def Obligations.PaddedFormatBytesAreDiscarded : Prop :=
  (∀ (s : State) (other : List Byte), s.shared = false → other.length = s.source.bytes.length →
    (∀ o, ¬ (36 ≤ o ∧ o < 20 + (sourceFmtBlk s.source.bytes).toInt.toNat) → other.getD o 0 = s.source.bytes.getD o 0) →
    ∀ t, exec .decodeHdr s = .next t →
      exec .decodeHdr { s with source := ⟨s.source.present, other⟩ } = .next { t with source := ⟨s.source.present, other⟩ }) ∧
  (∀ s t : State, exec .decodeHdr s = .next t → s.status.err = false → t.status.err = false →
    16 < (sourceFmtBlk s.src.bytes).toInt →
    t.hdr.fmtBlk = sourceFmtBlk s.src.bytes ∧ (readReg t .info).extractLsb' 10 1 = 1#1)

/-- R82, R120, R75, R121: where ENCODE succeeds, the sink holds the 44 header bytes of the layout, then DATA[0 .. L−1], then what it held beyond;
H_DATASIZE <- L, CURSOR <- 44 + L, and nothing else changes. -/
def Obligations.EncodeEmitsTheFile : Prop :=
  ∀ s : State, 44 + s.dataLen.toNat ≤ 2147483647 →
    (s.params.strictLayout = true → unsupported s.hdr.audioFmt s.hdr.bps = false) →
    s.sink.present = true → 44 + s.dataLen.toNat ≤ s.sink.cap.val →
    exec .encodeHdr s = .next { s with
      sink := { s.sink with bytes := (
        [s.hdr.ctag.b0, s.hdr.ctag.b1, s.hdr.ctag.b2, s.hdr.ctag.b3]
          ++ enc32 (BitVec.ofNat 32 (44 + s.dataLen.toNat)) (resolveOrder s.hdr.ctag)
          ++ [s.hdr.fmtTag.b0, s.hdr.fmtTag.b1, s.hdr.fmtTag.b2, s.hdr.fmtTag.b3]
          ++ [s.hdr.fmtMark.b0, s.hdr.fmtMark.b1, s.hdr.fmtMark.b2, s.hdr.fmtMark.b3]
          ++ enc32 16#32 (resolveOrder s.hdr.ctag)
          ++ enc16 s.hdr.audioFmt (resolveOrder s.hdr.ctag) ++ enc16 s.hdr.channels (resolveOrder s.hdr.ctag)
          ++ enc32 s.hdr.sRate (resolveOrder s.hdr.ctag) ++ enc32 s.hdr.byteRate (resolveOrder s.hdr.ctag)
          ++ enc16 s.hdr.blkAlign (resolveOrder s.hdr.ctag) ++ enc16 s.hdr.bps (resolveOrder s.hdr.ctag)
          ++ [s.hdr.dataMark.b0, s.hdr.dataMark.b1, s.hdr.dataMark.b2, s.hdr.dataMark.b3]
          ++ enc32 s.dataLen (resolveOrder s.hdr.ctag)
          ++ (List.range s.dataLen.toNat).map (Memory.read s.ram)
          ++ s.sink.bytes.drop (44 + s.dataLen.toNat)) }
      hdr := { s.hdr with dataSize := s.dataLen }
      cursor := BitVec.ofNat 32 (44 + s.dataLen.toNat)
      status := completed s.status }

/-- R120: where ENCODE ends in error, in the order of its checks. On errors 1 to 3 only STATUS changes. On SHORT_WRITE the sink's bytes below
DST_CAP and its length are unspecified within the bounds, everything else of the block is kept; one free value is drawn. -/
def Obligations.EncodeErrorsInOrder : Prop :=
  ∀ s : State,
    (2147483647 < 44 + s.dataLen.toNat →
      exec .encodeHdr s = .next { s with status := failed s.status .lengthOverflow }) ∧
    (44 + s.dataLen.toNat ≤ 2147483647 → s.params.strictLayout = true → unsupported s.hdr.audioFmt s.hdr.bps = true →
      exec .encodeHdr s = .next { s with status := failed s.status .unsupportedLayout }) ∧
    (44 + s.dataLen.toNat ≤ 2147483647 → ¬ (s.params.strictLayout = true ∧ unsupported s.hdr.audioFmt s.hdr.bps = true) →
      s.sink.present = false →
      exec .encodeHdr s = .next { s with status := failed s.status .openFailure }) ∧
    (44 + s.dataLen.toNat ≤ 2147483647 → ¬ (s.params.strictLayout = true ∧ unsupported s.hdr.audioFmt s.hdr.bps = true) →
      s.sink.present = true → s.sink.cap.val < 44 + s.dataLen.toNat →
      ∃ bytes : List Byte,
        exec .encodeHdr s = .next { s with
          sink := { s.sink with bytes := bytes }, draws := s.draws + 1, status := failed s.status .shortWrite } ∧
        s.sink.bytes.length ≤ bytes.length ∧ bytes.length ≤ max s.sink.bytes.length s.sink.cap.val ∧
        ∀ o, s.sink.cap.val ≤ o → bytes.getD o 0 = s.sink.bytes.getD o 0)

/-- R153: READ_DATA, every check in order; on success DATA[0 .. n−1] are the source's bytes at CURSOR unreordered, every other byte of the RAM is as
before, DATA_LEN = n and CURSOR has moved past the payload. -/
def Obligations.ReadDataCopiesThePayload : Prop :=
  decodeWord 0x00000003#32 = .ok .readData ∧ ∀ s : State,
    (s.src.present = false → exec .readData s = .next { s with status := failed s.status .openFailure }) ∧
    (s.src.present = true → (s.hdr.dataSize.toInt < 0 ∨ (s.params.dataCap.val : Int) < s.hdr.dataSize.toInt) →
      exec .readData s = .next { s with status := failed s.status .outOfRange }) ∧
    (s.src.present = true → 0 ≤ s.hdr.dataSize.toInt → s.hdr.dataSize.toInt ≤ (s.params.dataCap.val : Int) →
      (s.src.bytes.length : Int) < s.cursor.toNat + s.hdr.dataSize.toInt →
      exec .readData s = .next { s with status := failed s.status .truncatedInput }) ∧
    (s.src.present = true → 0 ≤ s.hdr.dataSize.toInt → s.hdr.dataSize.toInt ≤ (s.params.dataCap.val : Int) →
      (s.cursor.toNat : Int) + s.hdr.dataSize.toInt ≤ s.src.bytes.length → MachineInv s →
      ∃ m, exec .readData s = .next { s with
          ram := m, dataLen := s.hdr.dataSize, cursor := s.cursor + s.hdr.dataSize, status := completed s.status } ∧
        s.cursor.toNat + s.hdr.dataSize.toNat < 4294967296 ∧
        ∀ a, Memory.read m a =
          if a < s.hdr.dataSize.toNat then s.src.bytes.getD (s.cursor.toNat + a) 0 else Memory.read s.ram a)

/-- R154: PACK16 writes the sample PK_SAMPLE[15:0] into both slots of the frame at PK_INDEX in the order of H_CTAG, whatever the header's depth and
channel count, leaves CURSOR = PK_INDEX + 4, and touches no other byte; past DATA_LEN it raises OUT_OF_RANGE with nothing written. -/
def Obligations.Pack16WritesTheFrame : Prop :=
  decodeWord 0x00000005#32 = .ok .pack16 ∧ ∀ s : State,
    (s.dataLen.toNat < s.pkIndex.toNat + 4 → exec .pack16 s = .next { s with status := failed s.status .outOfRange }) ∧
    (s.pkIndex.toNat + 4 ≤ s.dataLen.toNat → Memory.wf s.ram →
      ∃ m, exec .pack16 s = .next { s with
          ram := m, cursor := BitVec.ofNat 32 (s.pkIndex.toNat + 4), status := completed s.status } ∧
        ∀ a, Memory.read m a =
          if a = s.pkIndex.toNat ∨ a = s.pkIndex.toNat + 2 then
            (if s.hdr.ctag.b3 = 0x46#8 then s.pkSample.extractLsb' 0 8 else s.pkSample.extractLsb' 8 8)
          else if a = s.pkIndex.toNat + 1 ∨ a = s.pkIndex.toNat + 3 then
            (if s.hdr.ctag.b3 = 0x46#8 then s.pkSample.extractLsb' 8 8 else s.pkSample.extractLsb' 0 8)
          else Memory.read s.ram a)

/-- R155: PACK32 writes the 32-bit sample PK_SAMPLE at PK_INDEX in the order of H_CTAG, once, leaves CURSOR = PK_INDEX + 4, and touches no other byte;
past DATA_LEN it raises OUT_OF_RANGE with nothing written. -/
def Obligations.Pack32WritesTheSample : Prop :=
  decodeWord 0x00000006#32 = .ok .pack32 ∧ ∀ s : State,
    (s.dataLen.toNat < s.pkIndex.toNat + 4 → exec .pack32 s = .next { s with status := failed s.status .outOfRange }) ∧
    (s.pkIndex.toNat + 4 ≤ s.dataLen.toNat → Memory.wf s.ram →
      ∃ m, exec .pack32 s = .next { s with
          ram := m, cursor := BitVec.ofNat 32 (s.pkIndex.toNat + 4), status := completed s.status } ∧
        (∀ k, k < 4 → Memory.read m (s.pkIndex.toNat + k) =
          if s.hdr.ctag.b3 = 0x46#8 then s.pkSample.extractLsb' (8 * k) 8 else s.pkSample.extractLsb' (8 * (3 - k)) 8) ∧
        ∀ a, (a < s.pkIndex.toNat ∨ s.pkIndex.toNat + 4 ≤ a) → Memory.read m a = Memory.read s.ram a)

/-! ### What the commands leave alone -/

/-- R39, R28, R29, R26, R42 to R45: every command answers a next state with BUSY = 0 and DONE = 1, and writes only what its rule names: no command
writes PK_INDEX, PK_SAMPLE, LASTOP, the latch, the parameters, the source or anything of the host's; DATA is written by READ_DATA and the packers
alone, DATA_LEN by READ_DATA and DEFAULT alone, the sink by ENCODE alone, the header by DECODE, DEFAULT and (H_DATASIZE alone) ENCODE. -/
def Obligations.CommandsWriteOnlyWhatTheirRulesName : Prop :=
  ∀ (i : Instr) (s : State), ∃ t, exec i s = .next t ∧
    t.status.busy = false ∧ t.status.done = true ∧ t.status.lastop = s.status.lastop ∧
    t.pkIndex = s.pkIndex ∧ t.pkSample = s.pkSample ∧ t.latched = s.latched ∧ t.params = s.params ∧ t.source = s.source ∧
    t.shared = s.shared ∧ t.faults = s.faults ∧ t.host = s.host ∧ t.response = s.response ∧ t.engineDelay = s.engineDelay ∧
    (i ≠ .readData → i ≠ .pack16 → i ≠ .pack32 → t.ram = s.ram) ∧
    (i ≠ .readData → i ≠ .loadDefault → t.dataLen = s.dataLen) ∧
    (i ≠ .encodeHdr → t.sink = s.sink ∧ t.draws = s.draws) ∧
    (i ≠ .decodeHdr → i ≠ .loadDefault → i ≠ .encodeHdr → t.hdr = s.hdr) ∧
    (i = .encodeHdr → t.hdr = { s.hdr with dataSize := t.hdr.dataSize }) ∧
    (i = .nop → t.cursor = s.cursor)

/-- R181, R183, R187: a command that ends in error has set ERR, ERRCODE and STICKY, and left the header, DATA, DATA_LEN and both ports as they were;
the exceptions are DECODE's CURSOR and the sink of a SHORT_WRITE. -/
def Obligations.ErrorsChangeOnlyStatus : Prop :=
  ∀ (i : Instr) (s t : State), exec i s = .next t → s.status.errcode = .none → t.status.errcode ≠ .none →
    t = { s with status := failed s.status t.status.errcode, cursor := t.cursor, sink := t.sink, draws := t.draws } ∧
    (i ≠ .decodeHdr → t.cursor = s.cursor) ∧
    (t.status.errcode ≠ .shortWrite → t.sink = s.sink ∧ t.draws = s.draws)

/-- R180, R185: which error codes each command can end in. -/
def Obligations.ErrorCodesOfEachCommand : Prop :=
  ∀ (i : Instr) (s t : State), exec i s = .next t → s.status.errcode = .none →
    (i = .nop ∨ i = .loadDefault → t.status.errcode = .none) ∧
    (i = .decodeHdr → t.status.errcode ∈ [.none, .openFailure, .truncatedInput, .unsupportedLayout]) ∧
    (i = .readData → t.status.errcode ∈ [.none, .openFailure, .outOfRange, .truncatedInput]) ∧
    (i = .encodeHdr → t.status.errcode ∈ [.none, .lengthOverflow, .unsupportedLayout, .openFailure, .shortWrite]) ∧
    (i = .pack16 ∨ i = .pack32 → t.status.errcode ∈ [.none, .outOfRange]) ∧
    (s.params.strictLayout = false → t.status.errcode ≠ .unsupportedLayout)

/-- R217: CURSOR after each command, on success and on error. -/
def Obligations.CursorAfterEachCommand : Prop :=
  ∀ (i : Instr) (s t : State), MachineInv s → exec i s = .next t → s.status.err = false →
    (t.status.err = true → i ≠ .decodeHdr → t.cursor = s.cursor) ∧
    (t.status.err = true → i = .decodeHdr → t.status.errcode = .openFailure → t.cursor = 0#32) ∧
    (t.status.err = true → i = .decodeHdr → t.status.errcode = .truncatedInput →
      t.cursor = 0#32 ∨ t.cursor = 4#32 ∨ t.cursor = 8#32 ∨ t.cursor = 20#32 ∨
        t.cursor = 20#32 + sourceFmtBlk s.src.bytes) ∧
    (t.status.err = true → i = .decodeHdr → t.status.errcode = .unsupportedLayout →
      t.cursor = 28#32 + sourceFmtBlk s.src.bytes) ∧
    (t.status.err = false →
      match i with
      | .nop => t.cursor = s.cursor
      | .loadDefault => t.cursor = 0#32
      | .decodeHdr => t.cursor.toNat = 28 + t.hdr.fmtBlk.toNat
      | .readData => t.cursor.toNat = s.cursor.toNat + s.hdr.dataSize.toNat
      | .encodeHdr => t.cursor.toNat = 44 + s.dataLen.toNat
      | .pack16 => t.cursor.toNat = s.pkIndex.toNat + 4
      | .pack32 => t.cursor.toNat = s.pkIndex.toNat + 4)

/-- R47: no command reads a STATUS flag: whatever the rest of the state is, either the command completes without error from every STATUS, or it
raises one and the same error from every STATUS; and everything but STATUS comes out the same. -/
def Obligations.NoCommandReadsStatus : Prop :=
  ∀ (i : Instr) (s : State),
    (∃ u : State, ∀ st : Status, exec i { s with status := st } = .next { u with status := completed st }) ∨
    (∃ (u : State) (e : ErrCode), e ≠ .none ∧ ∀ st : Status, exec i { s with status := st } = .next { u with status := failed st e })

/-- R40: the block never reads H_FILESIZE: from states that differ in that register alone every command gives states that differ in it at most. -/
def Obligations.FileSizeRegisterIsNeverRead : Prop :=
  ∀ (i : Instr) (s t : State) (v : Word), exec i s = .next t →
    ∃ u, exec i { s with hdr := { s.hdr with fileSize := v } } = .next { t with hdr := { t.hdr with fileSize := u } }

/-! ### Reset -/

/-- R210: reset gives every register its reset value and discards the latched command; the fault set and the source stay, and so does the sink when
no ENCODE is pending. -/
def Obligations.ResetValues : Prop :=
  ∀ s : State, ∃ t, runHostOp .reset s = .next t ∧
    readReg t .status = 0#32 ∧ t.cursor = 0#32 ∧ t.dataLen = 0#32 ∧ t.pkIndex = 0#32 ∧ t.pkSample = 0#32 ∧
    readReg t .hCtag = 0#32 ∧ readReg t .hFileSize = 0#32 ∧ readReg t .hFmtTag = 0#32 ∧ readReg t .hFmtMark = 0#32 ∧
    readReg t .hFmtBlk = 0#32 ∧ readReg t .hAudioFmt = 0#32 ∧ readReg t .hChannels = 0#32 ∧ readReg t .hSRate = 0#32 ∧
    readReg t .hByteRate = 0#32 ∧ readReg t .hBlkAlign = 0#32 ∧ readReg t .hBps = 0#32 ∧ readReg t .hDataMark = 0#32 ∧
    readReg t .hDataSize = 0#32 ∧ t.latched = 0#32 ∧ readReg t .info = 0x00000341#32 ∧
    t.params = s.params ∧ t.faults = s.faults ∧ t.source = s.source ∧ t.shared = s.shared ∧ t.host = s.host ∧
    (s.status.busy = false ∨ s.latched ≠ 0x00000004#32 → t.sink = s.sink)

/-- R211: reset over a pending ENCODE leaves the sink's bytes below min(44 + L, DST_CAP) and its length unspecified within the bounds, and every
byte beyond as it was. That it does so for an ENCODE that would have ended in error too is the model's reading (log entry 13). -/
def Obligations.ResetOverPendingEncode : Prop :=
  ∀ s : State, s.status.busy = true → s.latched = 0x00000004#32 →
    ∃ t, runHostOp .reset s = .next t ∧ t.sink.present = s.sink.present ∧ t.sink.cap = s.sink.cap ∧
      s.sink.bytes.length ≤ t.sink.bytes.length ∧
      t.sink.bytes.length ≤ max s.sink.bytes.length (min (44 + s.dataLen.toNat) s.sink.cap.val) ∧
      ∀ o, min (44 + s.dataLen.toNat) s.sink.cap.val ≤ o → t.sink.bytes.getD o 0 = s.sink.bytes.getD o 0

/-! ### Whole-machine rules -/

/-- R223, R222: an idle block changes nothing; so a run that has ended well stays as it is. That an idle step answers the same state is the
model's reading (log entry 10). -/
def Obligations.IdleBlockIsStill : Prop :=
  ∀ s : State, s.host = [] → s.status.busy = false → step s = .next s

/-- R49, R192, R210: nothing clears the fault set, not even reset. -/
def Obligations.ModelFaultsAreNeverCleared : Prop :=
  ∀ s t : State, step s = .next t →
    (s.faults.hostBadAccess = true → t.faults.hostBadAccess = true) ∧ (s.faults.hostHazard = true → t.faults.hostHazard = true)

/-- R25, R188: only reset clears STICKY. -/
def Obligations.OnlyResetClearsSticky : Prop :=
  ∀ s t : State, step s = .next t → s.status.sticky = true → t.status.sticky = false →
    s.host.head? = some .reset ∧ t.status = Status.reset

/-- R5, R21: no step changes the parameters DATA_CAP and STRICT_LAYOUT. -/
def Obligations.ParametersAreConstant : Prop :=
  ∀ s t : State, step s = .next t → t.params = s.params

/-- R193, R192, R78, R215, R5: no step ends in a fault, since model faults are recorded; and a step is refused exactly when it is the host's next
operation and would make SRC_LEN reach 2^32, or would change a resource or read the sink while BUSY = 1. That these are refusals is how the
model reads the spec's "no such step" (log entry 9). -/
def Obligations.StepsAreRefusedForResourcesOnly : Prop :=
  ∀ s : State, (∀ f, step s ≠ .fault f) ∧
    ∀ r, step s = .refused r ↔
      (s.status.busy = false ∨ s.engineDelay ≠ 0) ∧ ∃ op rest, s.host = op :: rest ∧
        ((r = .sourceTooLong ∧
            ((∃ present bytes, op = .presentSource present bytes ∧ 4294967296 ≤ bytes.length) ∨
              (op = .connect ∧ 4294967296 ≤ s.sink.bytes.length))) ∨
          (r = .resourceWhileBusy ∧ s.status.busy = true ∧
            ((∃ present bytes, op = .presentSource present bytes ∧ bytes.length < 4294967296) ∨
              (∃ present cap bytes, op = .presentSink present cap bytes) ∨
              (op = .connect ∧ s.sink.bytes.length < 4294967296) ∨ op = .readSink)))

/-- R221, R91: a POLL ends: from any state with BUSY = 1 whose host polls, the command completes after finitely many steps. That the engine waits a
finite drawn number of host steps is the model's form of weak fairness (log entry 4). -/
def Obligations.PolledCommandCompletes : Prop :=
  ∀ (s : State) (rest : List HostOp), s.status.busy = true → s.host = .poll :: rest →
    ∃ n t, core.run n s = .next t ∧ t.status.busy = false ∧ t.status.done = true ∧ t.host = s.host ∧ n ≤ s.engineDelay + 1

/-- R42, R210: RAM bytes at or above DATA_LEN are not observable: from two states whose RAMs agree below DATA_LEN every step gives states equal in
everything but the RAM, whose RAMs agree below DATA_LEN again. -/
def Obligations.BytesAboveDataLenAreUnobservable : Prop :=
  ∀ (s t : State) (m : Memory), Memory.wf s.ram → Memory.wf m →
    (∀ a, a < s.dataLen.toNat → Memory.read m a = Memory.read s.ram a) → step s = .next t →
    ∃ m', step { s with ram := m } = .next { t with ram := m' } ∧
      ∀ a, a < t.dataLen.toNat → Memory.read m' a = Memory.read t.ram a

/-! ### The end of a run -/

/-- R222: a run has ended well within n steps exactly when, at the first state whose host has no operation left, BUSY = 0 and the fault set is
empty; its result is then what that state shows. That a run is decided at that state, and a run of an empty program at its start, is the
model's reading of R222 (log entry 26, DEDUCED). -/
def Obligations.RunEndsWellAtItsLastHostOperation : Prop :=
  ∀ (n : Nat) (s : State),
    (runEndsWell n s = true ↔
      ∃ k t, k ≤ n ∧ core.run k s = .next t ∧ t.host = [] ∧ t.status.busy = false ∧
        t.faults.hostBadAccess = false ∧ t.faults.hostHazard = false ∧
        ∀ j, j < k → ∀ u : State, core.run j s = .next u → u.host ≠ []) ∧
    (∀ o, runResult n s = some o ↔ runEndsWell n s = true ∧ ∃ t, lastHostState n s = some t ∧ o = observe t)

/-- R222, R192, R49: a run whose last host operation leaves BUSY = 1 has not ended well however many steps follow, and neither has a run with a
model fault recorded. That BUSY = 1 in the state right after the last host operation spoils the run for good, although the engine then
completes the command, is the model's reading of R222 (log entry 26, DEDUCED). -/
def Obligations.PendingCommandOrModelFaultSpoilsTheRun : Prop :=
  (∀ (s t : State) (op : HostOp), s.host = [op] → step s = .next t → t.host = [] → t.status.busy = true →
    ∀ n, runEndsWell n s = false) ∧
  (∀ s : State, s.faults.hostBadAccess = true ∨ s.faults.hostHazard = true → ∀ n, runEndsWell n s = false)

/-! ### The invariant and the round trip -/

/-- R27, R42, R25, R45, R5: the invariant holds at reset, whatever the parameters. -/
def Obligations.InvariantHoldsAtReset : Prop :=
  MachineInv State.reset ∧ ∀ (p : Params) (source : Source) (sink : Sink) (program : List HostOp),
    source.bytes.length < 4294967296 → MachineInv (launch p source sink program)

/-- R27, R42, R24, R25, R45, R181, R5: every step, the engine's or the host's, keeps the invariant: DATA_LEN ≤ DATA_CAP, the RAM canonical and below
DATA_CAP, STATUS consistent, SRC_LEN < 2^32. -/
def Obligations.EveryStepKeepsTheInvariant : Prop :=
  ∀ s t : State, MachineInv s → step s = .next t → MachineInv t

/-- R122: the round-trip law, for any 13 header values, any payload and any tag: ENCODE succeeds; with the sink presented as the source DECODE succeeds
and gives the header back but for H_FMTBLK = 16, H_DATASIZE = L and H_FILESIZE = 44 + L, with CURSOR = 44; and READ_DATA gives the payload back. -/
def Obligations.EncodeThenDecodeGivesTheHeaderBack : Prop :=
  ∀ s : State, MachineInv s → s.sink.present = true → 44 + s.dataLen.toNat ≤ s.sink.cap.val → 44 + s.dataLen.toNat ≤ 2147483647 →
    ¬ (s.params.strictLayout = true ∧ unsupported s.hdr.audioFmt s.hdr.bps = true) →
    ∃ t u v : State,
      exec .encodeHdr s = .next t ∧ t.status = completed s.status ∧
      exec .decodeHdr { t with shared := true } = .next u ∧ u.status = completed s.status ∧
      u.hdr = { s.hdr with fmtBlk := 16#32, dataSize := s.dataLen, fileSize := BitVec.ofNat 32 (44 + s.dataLen.toNat) } ∧
      u.cursor = 44#32 ∧
      exec .readData u = .next v ∧ v.status = completed s.status ∧ v.hdr = u.hdr ∧ v.dataLen = s.dataLen ∧
      v.cursor = BitVec.ofNat 32 (44 + s.dataLen.toNat) ∧
      ∀ a, a < s.dataLen.toNat → Memory.read v.ram a = Memory.read s.ram a
end

