-- ==== Sys2Proof/Laws/Bits.lean ====
section
/-! SUPPORT. Words built by joining bit fields: bit by bit, and the fields back. -/

namespace Sys2Proof

/-- Bit `i` of a joined pair, with the width written as a sum. -/
theorem getLsbD_join {m n : Nat} (x : BitVec m) (y : BitVec n) (i : Nat) :
    BitVec.getLsbD (w := m + n) (x ++ y) i = if i < n then y.getLsbD i else x.getLsbD (i - n) := by
  rw [BitVec.getLsbD_append]

/-- A field that lies in the lower part of a joined pair. -/
theorem extract_join_low {m n : Nat} (x : BitVec m) (y : BitVec n) (start len : Nat) (h : start + len ≤ n) :
    BitVec.extractLsb' (n := m + n) start len (x ++ y) = y.extractLsb' start len := by
  apply BitVec.eq_of_getLsbD_eq
  intro i hi
  simp only [BitVec.getLsbD_extractLsb', getLsbD_join, hi, decide_true, Bool.true_and]
  rw [if_pos (by omega)]

/-- A field that lies in the upper part of a joined pair. -/
theorem extract_join_high {m n : Nat} (x : BitVec m) (y : BitVec n) (start len : Nat) (h : n ≤ start) :
    BitVec.extractLsb' (n := m + n) start len (x ++ y) = x.extractLsb' (start - n) len := by
  apply BitVec.eq_of_getLsbD_eq
  intro i hi
  simp only [BitVec.getLsbD_extractLsb', getLsbD_join, hi, decide_true, Bool.true_and]
  rw [if_neg (by omega), show start + i - n = start - n + i by omega]

theorem extract_all {n : Nat} (x : BitVec n) : x.extractLsb' 0 n = x := by
  apply BitVec.eq_of_getLsbD_eq
  intro i hi
  simp [hi]

/-- Two halves joined are the word. -/
theorem join_extract {m n : Nat} (w : BitVec (m + n)) :
    (w.extractLsb' n m ++ w.extractLsb' 0 n : BitVec (m + n)) = w := by
  apply BitVec.eq_of_getLsbD_eq
  intro i hi
  rw [getLsbD_join]
  split
  · simp [*]
  · simp only [BitVec.getLsbD_extractLsb', show i - n < m by omega, decide_true, Bool.true_and]
    rw [show n + (i - n) = i by omega]

/-- A 16-bit field has a small signed value exactly when it has that pattern (R6). -/
theorem half_toInt (b : Half) (n : Nat) (hn : n < 32768) : b.toInt = (n : Int) ↔ b = BitVec.ofNat 16 n := by
  have hv : (BitVec.ofNat 16 n).toInt = (n : Int) := by
    rw [BitVec.toInt_eq_toNat_cond, BitVec.toNat_ofNat]
    simp only [Nat.reducePow]
    split <;> omega
  constructor
  · intro h; exact BitVec.eq_of_toInt_eq (h.trans hv.symm)
  · rintro rfl; exact hv

/-- The four bytes of a joined word, lowest first. -/
theorem extract_bytes (a b c d : Byte) :
    BitVec.extractLsb' (n := 8 + 8 + 8 + 8) 0 8 (d ++ c ++ b ++ a) = a ∧
    BitVec.extractLsb' (n := 8 + 8 + 8 + 8) 8 8 (d ++ c ++ b ++ a) = b ∧
    BitVec.extractLsb' (n := 8 + 8 + 8 + 8) 16 8 (d ++ c ++ b ++ a) = c ∧
    BitVec.extractLsb' (n := 8 + 8 + 8 + 8) 24 8 (d ++ c ++ b ++ a) = d := by
  refine ⟨?_, ?_, ?_, ?_⟩
  · rw [extract_join_low _ _ _ _ (by omega), extract_all]
  · rw [extract_join_high _ _ _ _ (by omega), extract_join_low _ _ _ _ (by omega), extract_all]
  · rw [extract_join_high _ _ _ _ (by omega), extract_join_high _ _ _ _ (by omega), extract_join_low _ _ _ _ (by omega), extract_all]
  · rw [extract_join_high _ _ _ _ (by omega), extract_join_high _ _ _ _ (by omega), extract_join_high _ _ _ _ (by omega), extract_all]

/-- A word is its four bytes joined. -/
theorem join_bytes (w : BitVec (8 + 8 + 8 + 8)) :
    (w.extractLsb' 24 8 ++ w.extractLsb' 16 8 ++ w.extractLsb' 8 8 ++ w.extractLsb' 0 8 : BitVec (8 + 8 + 8 + 8)) = w := by
  apply BitVec.eq_of_getLsbD_eq
  intro i hi
  simp only [getLsbD_join, BitVec.getLsbD_extractLsb']
  split
  · simp [*]
  · split
    · rename_i h1 h2
      simp only [h2, decide_true, Bool.true_and]
      rw [show 8 + (i - 8) = i by omega]
    · split
      · rename_i h1 h2 h3
        simp only [h3, decide_true, Bool.true_and]
        rw [show 16 + (i - 8 - 8) = i by omega]
      · simp only [show i - 8 - 8 - 8 < 8 by omega, decide_true, Bool.true_and]
        rw [show 24 + (i - 8 - 8 - 8) = i by omega]

end Sys2Proof
end

