-- ==== Sys2Proof/Laws/Codec.lean ====
section
/-! SUPPORT. The byte-order primitives, tags and ports: lengths, round trips, what a source read and a sink write give. -/

namespace Sys2Proof.Machine

@[simp] theorem enc16_length (v : Half) (ord : ByteOrder) : (enc16 v ord).length = 2 := by cases ord <;> rfl

@[simp] theorem enc32_length (v : Word) (ord : ByteOrder) : (enc32 v ord).length = 4 := by cases ord <;> rfl

@[simp] theorem tagBytes_length (t : Tag) : (tagBytes t).length = 4 := rfl

/-- The emitted header is 44 bytes (R82). -/
@[simp] theorem headerBytes_length (h : Header) (len : Nat) : (headerBytes h len).length = 44 := by
  simp [headerBytes]

/-- SrcRead answers exactly when the source is present and holds the bytes asked for (R9). -/
theorem Source.read_eq_some {src : Source} {o n : Nat} {r : List Byte} :
    src.read o n = some r ↔ src.present = true ∧ o + n ≤ src.bytes.length ∧ (src.bytes.drop o).take n = r := by
  unfold Source.read
  split
  · rename_i h; simp [h]
  · rename_i h
    simp only [reduceCtorEq, false_iff, not_and]
    intro h1 h2
    exact absurd ⟨h1, h2⟩ h

/-- SrcRead is short exactly when the source is absent or ends too early (R9). -/
theorem Source.read_eq_none {src : Source} {o n : Nat} :
    src.read o n = none ↔ src.present = false ∨ src.bytes.length < o + n := by
  unfold Source.read
  split
  · rename_i h; simp [h]
  · rename_i h
    simp only [true_iff]
    rcases Bool.eq_false_or_eq_true src.present with hp | hp
    · exact .inr (by simpa [hp] using h)
    · exact .inl hp

/-- Byte `i` of a successful read is source byte `o + i`. -/
theorem Source.read_getD {src : Source} {o n i : Nat} {r : List Byte} (h : src.read o n = some r) (hi : i < n) :
    r.getD i 0 = src.bytes.getD (o + i) 0 := by
  obtain ⟨-, -, rfl⟩ := Source.read_eq_some.mp h
  simp [List.getD_eq_getElem?_getD, hi, List.getElem?_drop]

theorem Source.read_length {src : Source} {o n : Nat} {r : List Byte} (h : src.read o n = some r) : r.length = n := by
  obtain ⟨-, hl, rfl⟩ := Source.read_eq_some.mp h
  simp; omega

@[simp] theorem Sink.write_present (k : Sink) (o : Nat) (bs : List Byte) : (k.write o bs).present = k.present := rfl

@[simp] theorem Sink.write_cap (k : Sink) (o : Nat) (bs : List Byte) : (k.write o bs).cap = k.cap := rfl

/-- A sink write sets DST_LEN to max(DST_LEN, o + |bs|) (R75). -/
theorem Sink.write_length (k : Sink) (o : Nat) (bs : List Byte) :
    (k.write o bs).bytes.length = max k.bytes.length (o + bs.length) := by
  simp [Sink.write]; omega

@[simp] theorem Sink.scramble_present (k : Sink) (n d : Nat) : (k.scramble n d).present = k.present := rfl

@[simp] theorem Sink.scramble_cap (k : Sink) (n d : Nat) : (k.scramble n d).cap = k.cap := rfl

@[simp] theorem Sink.scramble_length (k : Sink) (n d : Nat) : (k.scramble n d).bytes.length = k.freeLen n d := by
  simp [Sink.scramble]

/-- The unspecified sink length is between DST_LEN and max(DST_LEN, n) (R120, R211). -/
theorem Sink.freeLen_bounds (k : Sink) (n d : Nat) :
    k.bytes.length ≤ k.freeLen n d ∧ k.freeLen n d ≤ max k.bytes.length n := by
  unfold Sink.freeLen
  have := Nat.mod_lt (Config.freeNat d) (show 0 < max k.bytes.length n - k.bytes.length + 1 by omega)
  omega

/-- Bytes at or beyond `n` survive an unspecified write (R120). -/
theorem Sink.scramble_getD (k : Sink) (n d i : Nat) (h : n ≤ i) : (k.scramble n d).bytes.getD i 0 = k.bytes.getD i 0 := by
  have hb := Sink.freeLen_bounds k n d
  by_cases hi : i < k.freeLen n d
  · simp [Sink.scramble, List.getD_eq_getElem?_getD, hi, Nat.not_lt.mpr h]
  · have h1 : k.bytes.length ≤ i := by omega
    simp [Sink.scramble, List.getD_eq_getElem?_getD, hi, h1]

/-- ENCODE's two requests leave the header, then the payload, then what the sink held beyond (R75, R120). -/
theorem emitTo_bytes (k : Sink) (h : Header) (payload : List Byte) :
    (emitTo k h payload).bytes = headerBytes h payload.length ++ payload ++ k.bytes.drop (44 + payload.length) := by
  unfold emitTo
  split
  · rename_i h0
    have : payload = [] := List.length_eq_zero_iff.mp h0
    subst this
    simp [Sink.write]
  · simp [Sink.write, List.drop_append]

@[simp] theorem emitTo_present (k : Sink) (h : Header) (payload : List Byte) : (emitTo k h payload).present = k.present := by
  unfold emitTo; split <;> rfl

@[simp] theorem emitTo_cap (k : Sink) (h : Header) (payload : List Byte) : (emitTo k h payload).cap = k.cap := by
  unfold emitTo; split <;> rfl

end Sys2Proof.Machine
end

