-- ==== Sys2Proof/Laws/Memory.lean ====
section
/-! SUPPORT. The DATA RAM: what a read gives after each operation, and that each operation keeps the canonical form and the bound. -/

namespace Sys2Proof.Machine

@[simp] theorem Memory.read_nil (a : Nat) : Memory.read [] a = Memory.unlisted := rfl

/-- An index below every listed one reads as unlisted. -/
theorem Memory.read_of_lt (m : Memory) (a : Nat) (h : ∀ c ∈ m, a < c.1) : Memory.read m a = Memory.unlisted := by
  induction m with
  | nil => rfl
  | cons c rest ih =>
    obtain ⟨k, b⟩ := c
    have hk : a < k := h (k, b) (by simp)
    have hne : k ≠ a := by omega
    simp only [Memory.read, if_neg hne]
    exact ih fun d hd => h d (by simp [hd])

theorem Memory.wf_tail {c : Host.Cell} {m : Memory} (h : Memory.wf (c :: m)) : Memory.wf m :=
  ⟨(List.pairwise_cons.mp h.1).2, fun d hd => h.2 d (by simp [hd])⟩

theorem Memory.wf_head {c : Host.Cell} {m : Memory} (h : Memory.wf (c :: m)) : ∀ d ∈ m, c.1 < d.1 :=
  (List.pairwise_cons.mp h.1).1

theorem Memory.read_cons_other (m : Memory) (a x : Nat) (b : Byte) (h : x ≠ a) :
    Memory.read (Memory.cons a b m) x = Memory.read m x := by
  unfold Memory.cons
  split
  · rfl
  · simp [Memory.read, h.symm]

theorem Memory.read_cons_same (m : Memory) (a : Nat) (b : Byte) (h : ∀ c ∈ m, a < c.1) :
    Memory.read (Memory.cons a b m) a = b := by
  unfold Memory.cons
  split
  · rename_i hb; rw [hb]; exact Memory.read_of_lt m a h
  · simp [Memory.read]

theorem Memory.cons_wf (m : Memory) (a : Nat) (b : Byte) (hm : Memory.wf m) (h : ∀ c ∈ m, a < c.1) :
    Memory.wf (Memory.cons a b m) := by
  unfold Memory.cons
  split
  · exact hm
  · rename_i hb
    refine ⟨List.pairwise_cons.mpr ⟨h, hm.1⟩, ?_⟩
    intro c hc
    rcases List.mem_cons.mp hc with rfl | hc
    · exact hb
    · exact hm.2 c hc

theorem Memory.mem_cons {m : Memory} {a : Nat} {b : Byte} {c : Host.Cell} (h : c ∈ Memory.cons a b m) : c = (a, b) ∨ c ∈ m := by
  unfold Memory.cons at h
  split at h
  · exact .inr h
  · exact List.mem_cons.mp h

theorem Memory.mem_write {m : Memory} {a : Nat} {b : Byte} {c : Host.Cell} (h : c ∈ Memory.write m a b) : c = (a, b) ∨ c ∈ m := by
  induction m with
  | nil => exact Memory.mem_cons h
  | cons d rest ih =>
    obtain ⟨k, e⟩ := d
    simp only [Memory.write] at h
    split at h
    · exact Memory.mem_cons h
    · split at h
      · rcases Memory.mem_cons h with h | h
        · exact .inl h
        · exact .inr (by simp [h])
      · rcases List.mem_cons.mp h with rfl | h
        · exact .inr (by simp)
        · rcases ih h with h | h
          · exact .inl h
          · exact .inr (by simp [h])

/-- A write keeps the canonical form. -/
theorem Memory.write_wf (m : Memory) (a : Nat) (b : Byte) (hm : Memory.wf m) : Memory.wf (Memory.write m a b) := by
  induction m with
  | nil => exact Memory.cons_wf [] a b ⟨List.Pairwise.nil, by simp⟩ (by simp)
  | cons d rest ih =>
    obtain ⟨k, e⟩ := d
    have hrest := Memory.wf_tail hm
    have hk := Memory.wf_head hm
    simp only [Memory.write]
    split
    · rename_i hlt
      refine Memory.cons_wf _ a b hm ?_
      intro c hc
      rcases List.mem_cons.mp hc with rfl | hc
      · exact hlt
      · exact Nat.lt_trans hlt (hk c hc)
    · split
      · rename_i heq
        subst heq
        exact Memory.cons_wf rest a b hrest hk
      · rename_i hge hne
        have hw := ih hrest
        refine ⟨List.pairwise_cons.mpr ⟨?_, hw.1⟩, ?_⟩
        · intro c hc
          rcases Memory.mem_write hc with rfl | hc
          · show k < a; omega
          · exact hk c hc
        · intro c hc
          rcases List.mem_cons.mp hc with rfl | hc
          · exact hm.2 _ (by simp)
          · exact hw.2 c hc

/-- A read after a write to the same index gives the byte written. -/
theorem Memory.read_write_same (m : Memory) (a : Nat) (b : Byte) (hm : Memory.wf m) :
    Memory.read (Memory.write m a b) a = b := by
  induction m with
  | nil => exact Memory.read_cons_same [] a b (by simp)
  | cons d rest ih =>
    obtain ⟨k, e⟩ := d
    have hk := Memory.wf_head hm
    simp only [Memory.write]
    split
    · rename_i hlt
      refine Memory.read_cons_same _ a b ?_
      intro c hc
      rcases List.mem_cons.mp hc with rfl | hc
      · exact hlt
      · exact Nat.lt_trans hlt (hk c hc)
    · split
      · rename_i heq
        subst heq
        exact Memory.read_cons_same rest a b hk
      · rename_i hge hne
        have hne' : k ≠ a := fun h => hne h.symm
        simp only [Memory.read, if_neg hne']
        exact ih (Memory.wf_tail hm)

/-- A write leaves every other index alone. -/
theorem Memory.read_write_other (m : Memory) (a x : Nat) (b : Byte) (h : x ≠ a) :
    Memory.read (Memory.write m a b) x = Memory.read m x := by
  induction m with
  | nil => exact Memory.read_cons_other [] a x b h
  | cons d rest ih =>
    obtain ⟨k, e⟩ := d
    simp only [Memory.write]
    split
    · exact Memory.read_cons_other _ a x b h
    · split
      · rename_i heq
        subst heq
        rw [Memory.read_cons_other rest a x b h]
        simp [Memory.read, h.symm]
      · simp only [Memory.read, ih]

theorem Memory.write_below (m : Memory) (a n : Nat) (b : Byte) (hm : Memory.below m n) (ha : a < n) :
    Memory.below (Memory.write m a b) n := by
  intro c hc
  rcases Memory.mem_write hc with rfl | hc
  · exact ha
  · exact hm c hc

theorem Memory.writeBytes_wf (m : Memory) (a : Nat) (bs : List Byte) (hm : Memory.wf m) :
    Memory.wf (Memory.writeBytes m a bs) := by
  induction bs generalizing m a with
  | nil => exact hm
  | cons b rest ih => exact ih _ _ (Memory.write_wf m a b hm)

theorem Memory.writeBytes_below (m : Memory) (a n : Nat) (bs : List Byte) (hm : Memory.below m n) (h : a + bs.length ≤ n) :
    Memory.below (Memory.writeBytes m a bs) n := by
  induction bs generalizing m a with
  | nil => exact hm
  | cons b rest ih =>
    simp only [List.length_cons] at h
    exact ih _ _ (Memory.write_below m a n b hm (by omega)) (by omega)

/-- Outside the written bytes MemWrite changes nothing. -/
theorem Memory.read_writeBytes_outside (m : Memory) (a x : Nat) (bs : List Byte) (h : x < a ∨ a + bs.length ≤ x) :
    Memory.read (Memory.writeBytes m a bs) x = Memory.read m x := by
  induction bs generalizing m a with
  | nil => rfl
  | cons b rest ih =>
    simp only [List.length_cons] at h
    rw [Memory.writeBytes, ih _ _ (by omega), Memory.read_write_other _ _ _ _ (by omega)]

/-- Inside the written bytes MemWrite leaves the byte written. -/
theorem Memory.read_writeBytes_inside (m : Memory) (a i : Nat) (bs : List Byte) (hm : Memory.wf m) (h : i < bs.length) :
    Memory.read (Memory.writeBytes m a bs) (a + i) = bs.getD i 0 := by
  induction bs generalizing m a i with
  | nil => simp at h
  | cons b rest ih =>
    cases i with
    | zero =>
      rw [Memory.writeBytes, Memory.read_writeBytes_outside _ _ _ _ (by omega)]
      simpa using Memory.read_write_same m a b hm
    | succ j =>
      have hj : j < rest.length := by simpa using h
      have := ih (Memory.write m a b) (a + 1) j (Memory.write_wf m a b hm) hj
      rw [Memory.writeBytes]
      simpa [Nat.add_assoc, Nat.add_comm 1 j] using this

theorem Memory.zeroFill_wf (m : Memory) (lo hi : Nat) (hm : Memory.wf m) : Memory.wf (Memory.zeroFill m lo hi) :=
  ⟨hm.1.filter _, fun c hc => hm.2 c (List.mem_filter.mp hc).1⟩

theorem Memory.zeroFill_below (m : Memory) (lo hi n : Nat) (hm : Memory.below m n) : Memory.below (Memory.zeroFill m lo hi) n :=
  fun c hc => hm c (List.mem_filter.mp hc).1

/-- The zero fill clears `lo .. hi − 1` and nothing else. -/
theorem Memory.read_zeroFill (m : Memory) (lo hi a : Nat) :
    Memory.read (Memory.zeroFill m lo hi) a = if lo ≤ a ∧ a < hi then 0 else Memory.read m a := by
  induction m with
  | nil => simp [Memory.zeroFill, Memory.read, Memory.unlisted]
  | cons d rest ih =>
    obtain ⟨k, e⟩ := d
    unfold Memory.zeroFill at ih ⊢
    by_cases hka : k = a
    · subst hka
      by_cases hin : lo ≤ k ∧ k < hi
      · simp only [List.filter_cons, hin.1, hin.2, decide_true, Bool.and_self, Bool.not_true]
        simpa [hin] using ih
      · have hf : (!(decide (lo ≤ k) && decide (k < hi))) = true := by
          simpa [-not_and, not_and_or] using hin
        simp only [List.filter_cons, hf, if_true, Memory.read, if_neg hin]
    · by_cases hf : (!(decide (lo ≤ k) && decide (k < hi))) = true
      · simp only [List.filter_cons, hf, if_true, Memory.read, if_neg hka]
        exact ih
      · simp only [List.filter_cons, hf, Memory.read, if_neg hka]
        exact ih

theorem Memory.unspecified_go (k : Nat) (l : List Nat) (hl : l.Pairwise (· < ·)) :
    Memory.wf (l.foldr (fun i m => Memory.cons i (Config.freeByte k i) m) []) ∧
      ∀ c ∈ l.foldr (fun i m => Memory.cons i (Config.freeByte k i) m) ([] : Memory), c.1 ∈ l := by
  induction l with
  | nil => exact ⟨⟨List.Pairwise.nil, by simp⟩, by simp⟩
  | cons i rest ih =>
    have hp := List.pairwise_cons.mp hl
    obtain ⟨hw, hmem⟩ := ih hp.2
    simp only [List.foldr_cons]
    refine ⟨Memory.cons_wf _ i _ hw fun c hc => hp.1 _ (hmem c hc), ?_⟩
    intro c hc
    rcases Memory.mem_cons hc with rfl | hc
    · simp
    · simp [hmem c hc]

theorem Memory.unspecified_wf (n k : Nat) : Memory.wf (Memory.unspecified n k) :=
  (Memory.unspecified_go k _ List.pairwise_lt_range).1

theorem Memory.unspecified_below (n k : Nat) : Memory.below (Memory.unspecified n k) n :=
  fun c hc => List.mem_range.mp ((Memory.unspecified_go k _ List.pairwise_lt_range).2 c hc)

@[simp] theorem Memory.readBytes_length (m : Memory) (a n : Nat) : (Memory.readBytes m a n).length = n := by
  simp [Memory.readBytes]

theorem Memory.readBytes_getD (m : Memory) (a n i : Nat) (h : i < n) :
    (Memory.readBytes m a n).getD i 0 = Memory.read m (a + i) := by
  simp [Memory.readBytes, List.getD_eq_getElem?_getD, h]

end Sys2Proof.Machine
end

