-- ==== Sys2Proof/Laws/State.lean ====
section
/-! SUPPORT. One lemma per field per update of State, each true by rfl, so that no later proof unfolds a record update. -/

namespace Sys2Proof.Machine

@[simp] theorem State.complete_status (s : State) : (s.complete).status = { s.status with busy := false, done := true } := rfl
@[simp] theorem State.complete_cursor (s : State) : (s.complete).cursor = s.cursor := rfl
@[simp] theorem State.complete_dataLen (s : State) : (s.complete).dataLen = s.dataLen := rfl
@[simp] theorem State.complete_pkIndex (s : State) : (s.complete).pkIndex = s.pkIndex := rfl
@[simp] theorem State.complete_pkSample (s : State) : (s.complete).pkSample = s.pkSample := rfl
@[simp] theorem State.complete_hdr (s : State) : (s.complete).hdr = s.hdr := rfl
@[simp] theorem State.complete_ram (s : State) : (s.complete).ram = s.ram := rfl
@[simp] theorem State.complete_latched (s : State) : (s.complete).latched = s.latched := rfl
@[simp] theorem State.complete_params (s : State) : (s.complete).params = s.params := rfl
@[simp] theorem State.complete_source (s : State) : (s.complete).source = s.source := rfl
@[simp] theorem State.complete_sink (s : State) : (s.complete).sink = s.sink := rfl
@[simp] theorem State.complete_shared (s : State) : (s.complete).shared = s.shared := rfl
@[simp] theorem State.complete_faults (s : State) : (s.complete).faults = s.faults := rfl
@[simp] theorem State.complete_host (s : State) : (s.complete).host = s.host := rfl
@[simp] theorem State.complete_response (s : State) : (s.complete).response = s.response := rfl
@[simp] theorem State.complete_engineDelay (s : State) : (s.complete).engineDelay = s.engineDelay := rfl
@[simp] theorem State.complete_draws (s : State) : (s.complete).draws = s.draws := rfl
@[simp] theorem State.complete_src (s : State) : (s.complete).src = s.src := rfl

@[simp] theorem State.raise_status (s : State) (e : ErrCode) : (s.raise e).status = { s.status with busy := false, done := true, err := true, errcode := e, sticky := true } := rfl
@[simp] theorem State.raise_cursor (s : State) (e : ErrCode) : (s.raise e).cursor = s.cursor := rfl
@[simp] theorem State.raise_dataLen (s : State) (e : ErrCode) : (s.raise e).dataLen = s.dataLen := rfl
@[simp] theorem State.raise_pkIndex (s : State) (e : ErrCode) : (s.raise e).pkIndex = s.pkIndex := rfl
@[simp] theorem State.raise_pkSample (s : State) (e : ErrCode) : (s.raise e).pkSample = s.pkSample := rfl
@[simp] theorem State.raise_hdr (s : State) (e : ErrCode) : (s.raise e).hdr = s.hdr := rfl
@[simp] theorem State.raise_ram (s : State) (e : ErrCode) : (s.raise e).ram = s.ram := rfl
@[simp] theorem State.raise_latched (s : State) (e : ErrCode) : (s.raise e).latched = s.latched := rfl
@[simp] theorem State.raise_params (s : State) (e : ErrCode) : (s.raise e).params = s.params := rfl
@[simp] theorem State.raise_source (s : State) (e : ErrCode) : (s.raise e).source = s.source := rfl
@[simp] theorem State.raise_sink (s : State) (e : ErrCode) : (s.raise e).sink = s.sink := rfl
@[simp] theorem State.raise_shared (s : State) (e : ErrCode) : (s.raise e).shared = s.shared := rfl
@[simp] theorem State.raise_faults (s : State) (e : ErrCode) : (s.raise e).faults = s.faults := rfl
@[simp] theorem State.raise_host (s : State) (e : ErrCode) : (s.raise e).host = s.host := rfl
@[simp] theorem State.raise_response (s : State) (e : ErrCode) : (s.raise e).response = s.response := rfl
@[simp] theorem State.raise_engineDelay (s : State) (e : ErrCode) : (s.raise e).engineDelay = s.engineDelay := rfl
@[simp] theorem State.raise_draws (s : State) (e : ErrCode) : (s.raise e).draws = s.draws := rfl
@[simp] theorem State.raise_src (s : State) (e : ErrCode) : (s.raise e).src = s.src := rfl

@[simp] theorem State.latch_status (s : State) (w : Word) : (s.latch w).status = { s.status with busy := true, done := false, err := false, errcode := .none, lastop := w.extractLsb' 0 8 } := rfl
@[simp] theorem State.latch_cursor (s : State) (w : Word) : (s.latch w).cursor = s.cursor := rfl
@[simp] theorem State.latch_dataLen (s : State) (w : Word) : (s.latch w).dataLen = s.dataLen := rfl
@[simp] theorem State.latch_pkIndex (s : State) (w : Word) : (s.latch w).pkIndex = s.pkIndex := rfl
@[simp] theorem State.latch_pkSample (s : State) (w : Word) : (s.latch w).pkSample = s.pkSample := rfl
@[simp] theorem State.latch_hdr (s : State) (w : Word) : (s.latch w).hdr = s.hdr := rfl
@[simp] theorem State.latch_ram (s : State) (w : Word) : (s.latch w).ram = s.ram := rfl
@[simp] theorem State.latch_latched (s : State) (w : Word) : (s.latch w).latched = w := rfl
@[simp] theorem State.latch_params (s : State) (w : Word) : (s.latch w).params = s.params := rfl
@[simp] theorem State.latch_source (s : State) (w : Word) : (s.latch w).source = s.source := rfl
@[simp] theorem State.latch_sink (s : State) (w : Word) : (s.latch w).sink = s.sink := rfl
@[simp] theorem State.latch_shared (s : State) (w : Word) : (s.latch w).shared = s.shared := rfl
@[simp] theorem State.latch_faults (s : State) (w : Word) : (s.latch w).faults = s.faults := rfl
@[simp] theorem State.latch_host (s : State) (w : Word) : (s.latch w).host = s.host := rfl
@[simp] theorem State.latch_response (s : State) (w : Word) : (s.latch w).response = s.response := rfl
@[simp] theorem State.latch_engineDelay (s : State) (w : Word) : (s.latch w).engineDelay = s.engineDelay := rfl
@[simp] theorem State.latch_draws (s : State) (w : Word) : (s.latch w).draws = s.draws := rfl
@[simp] theorem State.latch_src (s : State) (w : Word) : (s.latch w).src = s.src := rfl

@[simp] theorem State.issue_status (s : State) (w : Word) : (s.issue w).status = { s.status with busy := true, done := false, err := false, errcode := .none, lastop := w.extractLsb' 0 8 } := rfl
@[simp] theorem State.issue_cursor (s : State) (w : Word) : (s.issue w).cursor = s.cursor := rfl
@[simp] theorem State.issue_dataLen (s : State) (w : Word) : (s.issue w).dataLen = s.dataLen := rfl
@[simp] theorem State.issue_pkIndex (s : State) (w : Word) : (s.issue w).pkIndex = s.pkIndex := rfl
@[simp] theorem State.issue_pkSample (s : State) (w : Word) : (s.issue w).pkSample = s.pkSample := rfl
@[simp] theorem State.issue_hdr (s : State) (w : Word) : (s.issue w).hdr = s.hdr := rfl
@[simp] theorem State.issue_ram (s : State) (w : Word) : (s.issue w).ram = s.ram := rfl
@[simp] theorem State.issue_latched (s : State) (w : Word) : (s.issue w).latched = w := rfl
@[simp] theorem State.issue_params (s : State) (w : Word) : (s.issue w).params = s.params := rfl
@[simp] theorem State.issue_source (s : State) (w : Word) : (s.issue w).source = s.source := rfl
@[simp] theorem State.issue_sink (s : State) (w : Word) : (s.issue w).sink = s.sink := rfl
@[simp] theorem State.issue_shared (s : State) (w : Word) : (s.issue w).shared = s.shared := rfl
@[simp] theorem State.issue_faults (s : State) (w : Word) : (s.issue w).faults = s.faults := rfl
@[simp] theorem State.issue_host (s : State) (w : Word) : (s.issue w).host = s.host := rfl
@[simp] theorem State.issue_response (s : State) (w : Word) : (s.issue w).response = s.response := rfl
@[simp] theorem State.issue_engineDelay (s : State) (w : Word) : (s.issue w).engineDelay = Config.freeNat s.draws := rfl
@[simp] theorem State.issue_draws (s : State) (w : Word) : (s.issue w).draws = s.draws + 1 := rfl
@[simp] theorem State.issue_src (s : State) (w : Word) : (s.issue w).src = s.src := rfl

@[simp] theorem State.respond_status (s : State) (r : Response) : (s.respond r).status = s.status := rfl
@[simp] theorem State.respond_cursor (s : State) (r : Response) : (s.respond r).cursor = s.cursor := rfl
@[simp] theorem State.respond_dataLen (s : State) (r : Response) : (s.respond r).dataLen = s.dataLen := rfl
@[simp] theorem State.respond_pkIndex (s : State) (r : Response) : (s.respond r).pkIndex = s.pkIndex := rfl
@[simp] theorem State.respond_pkSample (s : State) (r : Response) : (s.respond r).pkSample = s.pkSample := rfl
@[simp] theorem State.respond_hdr (s : State) (r : Response) : (s.respond r).hdr = s.hdr := rfl
@[simp] theorem State.respond_ram (s : State) (r : Response) : (s.respond r).ram = s.ram := rfl
@[simp] theorem State.respond_latched (s : State) (r : Response) : (s.respond r).latched = s.latched := rfl
@[simp] theorem State.respond_params (s : State) (r : Response) : (s.respond r).params = s.params := rfl
@[simp] theorem State.respond_source (s : State) (r : Response) : (s.respond r).source = s.source := rfl
@[simp] theorem State.respond_sink (s : State) (r : Response) : (s.respond r).sink = s.sink := rfl
@[simp] theorem State.respond_shared (s : State) (r : Response) : (s.respond r).shared = s.shared := rfl
@[simp] theorem State.respond_faults (s : State) (r : Response) : (s.respond r).faults = s.faults := rfl
@[simp] theorem State.respond_host (s : State) (r : Response) : (s.respond r).host = s.host := rfl
@[simp] theorem State.respond_response (s : State) (r : Response) : (s.respond r).response = r := rfl
@[simp] theorem State.respond_engineDelay (s : State) (r : Response) : (s.respond r).engineDelay = s.engineDelay := rfl
@[simp] theorem State.respond_draws (s : State) (r : Response) : (s.respond r).draws = s.draws := rfl
@[simp] theorem State.respond_src (s : State) (r : Response) : (s.respond r).src = s.src := rfl

@[simp] theorem State.respondFreeWord_status (s : State) : (s.respondFreeWord).status = s.status := rfl
@[simp] theorem State.respondFreeWord_cursor (s : State) : (s.respondFreeWord).cursor = s.cursor := rfl
@[simp] theorem State.respondFreeWord_dataLen (s : State) : (s.respondFreeWord).dataLen = s.dataLen := rfl
@[simp] theorem State.respondFreeWord_pkIndex (s : State) : (s.respondFreeWord).pkIndex = s.pkIndex := rfl
@[simp] theorem State.respondFreeWord_pkSample (s : State) : (s.respondFreeWord).pkSample = s.pkSample := rfl
@[simp] theorem State.respondFreeWord_hdr (s : State) : (s.respondFreeWord).hdr = s.hdr := rfl
@[simp] theorem State.respondFreeWord_ram (s : State) : (s.respondFreeWord).ram = s.ram := rfl
@[simp] theorem State.respondFreeWord_latched (s : State) : (s.respondFreeWord).latched = s.latched := rfl
@[simp] theorem State.respondFreeWord_params (s : State) : (s.respondFreeWord).params = s.params := rfl
@[simp] theorem State.respondFreeWord_source (s : State) : (s.respondFreeWord).source = s.source := rfl
@[simp] theorem State.respondFreeWord_sink (s : State) : (s.respondFreeWord).sink = s.sink := rfl
@[simp] theorem State.respondFreeWord_shared (s : State) : (s.respondFreeWord).shared = s.shared := rfl
@[simp] theorem State.respondFreeWord_faults (s : State) : (s.respondFreeWord).faults = s.faults := rfl
@[simp] theorem State.respondFreeWord_host (s : State) : (s.respondFreeWord).host = s.host := rfl
@[simp] theorem State.respondFreeWord_response (s : State) : (s.respondFreeWord).response = .word (Config.freeWord s.draws) := rfl
@[simp] theorem State.respondFreeWord_engineDelay (s : State) : (s.respondFreeWord).engineDelay = s.engineDelay := rfl
@[simp] theorem State.respondFreeWord_draws (s : State) : (s.respondFreeWord).draws = s.draws + 1 := rfl
@[simp] theorem State.respondFreeWord_src (s : State) : (s.respondFreeWord).src = s.src := rfl

@[simp] theorem State.respondFreeByte_status (s : State) : (s.respondFreeByte).status = s.status := rfl
@[simp] theorem State.respondFreeByte_cursor (s : State) : (s.respondFreeByte).cursor = s.cursor := rfl
@[simp] theorem State.respondFreeByte_dataLen (s : State) : (s.respondFreeByte).dataLen = s.dataLen := rfl
@[simp] theorem State.respondFreeByte_pkIndex (s : State) : (s.respondFreeByte).pkIndex = s.pkIndex := rfl
@[simp] theorem State.respondFreeByte_pkSample (s : State) : (s.respondFreeByte).pkSample = s.pkSample := rfl
@[simp] theorem State.respondFreeByte_hdr (s : State) : (s.respondFreeByte).hdr = s.hdr := rfl
@[simp] theorem State.respondFreeByte_ram (s : State) : (s.respondFreeByte).ram = s.ram := rfl
@[simp] theorem State.respondFreeByte_latched (s : State) : (s.respondFreeByte).latched = s.latched := rfl
@[simp] theorem State.respondFreeByte_params (s : State) : (s.respondFreeByte).params = s.params := rfl
@[simp] theorem State.respondFreeByte_source (s : State) : (s.respondFreeByte).source = s.source := rfl
@[simp] theorem State.respondFreeByte_sink (s : State) : (s.respondFreeByte).sink = s.sink := rfl
@[simp] theorem State.respondFreeByte_shared (s : State) : (s.respondFreeByte).shared = s.shared := rfl
@[simp] theorem State.respondFreeByte_faults (s : State) : (s.respondFreeByte).faults = s.faults := rfl
@[simp] theorem State.respondFreeByte_host (s : State) : (s.respondFreeByte).host = s.host := rfl
@[simp] theorem State.respondFreeByte_response (s : State) : (s.respondFreeByte).response = .byte (Config.freeByte s.draws 0) := rfl
@[simp] theorem State.respondFreeByte_engineDelay (s : State) : (s.respondFreeByte).engineDelay = s.engineDelay := rfl
@[simp] theorem State.respondFreeByte_draws (s : State) : (s.respondFreeByte).draws = s.draws + 1 := rfl
@[simp] theorem State.respondFreeByte_src (s : State) : (s.respondFreeByte).src = s.src := rfl

@[simp] theorem State.record_status (s : State) (f : Fault) : (s.record f).status = s.status := by cases f <;> rfl
@[simp] theorem State.record_cursor (s : State) (f : Fault) : (s.record f).cursor = s.cursor := by cases f <;> rfl
@[simp] theorem State.record_dataLen (s : State) (f : Fault) : (s.record f).dataLen = s.dataLen := by cases f <;> rfl
@[simp] theorem State.record_pkIndex (s : State) (f : Fault) : (s.record f).pkIndex = s.pkIndex := by cases f <;> rfl
@[simp] theorem State.record_pkSample (s : State) (f : Fault) : (s.record f).pkSample = s.pkSample := by cases f <;> rfl
@[simp] theorem State.record_hdr (s : State) (f : Fault) : (s.record f).hdr = s.hdr := by cases f <;> rfl
@[simp] theorem State.record_ram (s : State) (f : Fault) : (s.record f).ram = s.ram := by cases f <;> rfl
@[simp] theorem State.record_latched (s : State) (f : Fault) : (s.record f).latched = s.latched := by cases f <;> rfl
@[simp] theorem State.record_params (s : State) (f : Fault) : (s.record f).params = s.params := by cases f <;> rfl
@[simp] theorem State.record_source (s : State) (f : Fault) : (s.record f).source = s.source := by cases f <;> rfl
@[simp] theorem State.record_sink (s : State) (f : Fault) : (s.record f).sink = s.sink := by cases f <;> rfl
@[simp] theorem State.record_shared (s : State) (f : Fault) : (s.record f).shared = s.shared := by cases f <;> rfl
@[simp] theorem State.record_host (s : State) (f : Fault) : (s.record f).host = s.host := by cases f <;> rfl
@[simp] theorem State.record_response (s : State) (f : Fault) : (s.record f).response = s.response := by cases f <;> rfl
@[simp] theorem State.record_engineDelay (s : State) (f : Fault) : (s.record f).engineDelay = s.engineDelay := by cases f <;> rfl
@[simp] theorem State.record_draws (s : State) (f : Fault) : (s.record f).draws = s.draws := by cases f <;> rfl
@[simp] theorem State.record_src (s : State) (f : Fault) : (s.record f).src = s.src := by cases f <;> rfl
@[simp] theorem State.record_hostBadAccess (s : State) : (s.record .hostBadAccess).faults = { s.faults with hostBadAccess := true } := rfl
@[simp] theorem State.record_hostHazard (s : State) : (s.record .hostHazard).faults = { s.faults with hostHazard := true } := rfl

/-- With the ports apart the engine sees the host's source (R43). -/
theorem State.src_apart (s : State) (h : s.shared = false) : s.src = s.source := by simp [State.src, h]

/-- With one resource behind both ports the engine sees the sink's bytes (R77). -/
theorem State.src_shared (s : State) (h : s.shared = true) : s.src = ⟨s.sink.present, s.sink.bytes⟩ := by simp [State.src, h]

end Sys2Proof.Machine
end

