-- ==== Sys2Proof/Laws/Commands.lean ====
section
/-! SUPPORT. What each command and each agent's turn can do: one inversion lemma per operation, which later proofs cite instead of
unfolding it. -/

namespace Sys2Proof.Machine

/-- NOP has one outcome. -/
theorem execNop_cases {s t : State} (h : exec .nop s = .next t) : t = s.complete :=
  (Host.Outcome.next.inj h).symm

/-- DEFAULT has one outcome. -/
theorem execLoadDefault_cases {s t : State} (h : exec .loadDefault s = .next t) :
    t = State.complete { s with hdr := defaultHeader, dataLen := 0, cursor := 0 } :=
  (Host.Outcome.next.inj h).symm

/-- DECODE commits a parsed header or raises the parse's error. -/
theorem execDecodeHdr_cases {s t : State} (h : exec .decodeHdr s = .next t) :
    (∃ hd c, parseHeader s.params.strictLayout s.src = .ok (hd, c) ∧
      t = State.complete { s with hdr := hd, cursor := BitVec.ofNat 32 c }) ∨
    (∃ e, parseHeader s.params.strictLayout s.src = .error e ∧
      t = State.raise { s with cursor := BitVec.ofNat 32 e.cursor } e.code) := by
  have h := (Host.Outcome.next.inj h).symm
  split at h
  · rename_i hd c hp; exact .inl ⟨hd, c, hp, h⟩
  · rename_i e hp; exact .inr ⟨e, hp, h⟩

/-- READ_DATA raises one of three errors, or copies the bytes of a successful source read. -/
theorem execReadData_cases {s t : State} (h : exec .readData s = .next t) :
    (s.src.present = false ∧ t = s.raise .openFailure) ∨
    (s.src.present = true ∧ (s.hdr.dataSize.toInt < 0 ∨ (s.params.dataCap.val : Int) < s.hdr.dataSize.toInt) ∧
      t = s.raise .outOfRange) ∨
    (s.src.present = true ∧ 0 ≤ s.hdr.dataSize.toInt ∧ s.hdr.dataSize.toInt ≤ (s.params.dataCap.val : Int) ∧
      s.src.read s.cursor.toNat s.hdr.dataSize.toInt.toNat = none ∧ t = s.raise .truncatedInput) ∨
    (s.src.present = true ∧ 0 ≤ s.hdr.dataSize.toInt ∧ s.hdr.dataSize.toInt ≤ (s.params.dataCap.val : Int) ∧
      ∃ r, s.src.read s.cursor.toNat s.hdr.dataSize.toInt.toNat = some r ∧
        t = State.complete { s with
          ram := Memory.writeBytes s.ram 0 r
          dataLen := BitVec.ofNat 32 s.hdr.dataSize.toInt.toNat
          cursor := BitVec.ofNat 32 (s.cursor.toNat + s.hdr.dataSize.toInt.toNat) }) := by
  have h := (Host.Outcome.next.inj h).symm
  split at h
  · rename_i hp; exact .inl ⟨hp, h⟩
  · rename_i hp
    have hp : s.src.present = true := by simpa using hp
    split at h
    · rename_i hr; exact .inr (.inl ⟨hp, hr, h⟩)
    · rename_i hr
      have h0 : 0 ≤ s.hdr.dataSize.toInt := by omega
      have h1 : s.hdr.dataSize.toInt ≤ (s.params.dataCap.val : Int) := by omega
      split at h
      · rename_i hs; exact .inr (.inr (.inl ⟨hp, h0, h1, hs, h⟩))
      · rename_i r hs; exact .inr (.inr (.inr ⟨hp, h0, h1, r, hs, h⟩))

/-- ENCODE raises one of four errors, in order, or commits. -/
theorem execEncodeHdr_cases {s t : State} (h : exec .encodeHdr s = .next t) :
    (2147483647 < 44 + s.dataLen.toNat ∧ t = s.raise .lengthOverflow) ∨
    (44 + s.dataLen.toNat ≤ 2147483647 ∧ (s.params.strictLayout && unsupported s.hdr.audioFmt s.hdr.bps) = true ∧
      t = s.raise .unsupportedLayout) ∨
    (44 + s.dataLen.toNat ≤ 2147483647 ∧ (s.params.strictLayout && unsupported s.hdr.audioFmt s.hdr.bps) = false ∧
      s.sink.present = false ∧ t = s.raise .openFailure) ∨
    (44 + s.dataLen.toNat ≤ 2147483647 ∧ (s.params.strictLayout && unsupported s.hdr.audioFmt s.hdr.bps) = false ∧
      s.sink.present = true ∧ s.sink.cap.val < 44 + s.dataLen.toNat ∧ t = encodeShort s) ∨
    (44 + s.dataLen.toNat ≤ 2147483647 ∧ (s.params.strictLayout && unsupported s.hdr.audioFmt s.hdr.bps) = false ∧
      s.sink.present = true ∧ 44 + s.dataLen.toNat ≤ s.sink.cap.val ∧ t = encodeCommit s) := by
  have h := (Host.Outcome.next.inj h).symm
  split at h
  · rename_i h1; exact .inl ⟨h1, h⟩
  · rename_i h1
    have h1 : 44 + s.dataLen.toNat ≤ 2147483647 := by omega
    split at h
    · rename_i h2; exact .inr (.inl ⟨h1, h2, h⟩)
    · rename_i h2
      have h2 : (s.params.strictLayout && unsupported s.hdr.audioFmt s.hdr.bps) = false := Bool.eq_false_iff.mpr h2
      split at h
      · rename_i h3; exact .inr (.inr (.inl ⟨h1, h2, h3, h⟩))
      · rename_i h3
        have h3 : s.sink.present = true := by simpa using h3
        split at h
        · rename_i h4; exact .inr (.inr (.inr (.inl ⟨h1, h2, h3, h4, h⟩)))
        · rename_i h4; exact .inr (.inr (.inr (.inr ⟨h1, h2, h3, by omega, h⟩)))

/-- A packer raises OUT_OF_RANGE or writes its 4 bytes. -/
theorem packBytes_cases (s : State) (bs : List Byte) :
    (s.dataLen.toNat < s.pkIndex.toNat + 4 ∧ packBytes s bs = s.raise .outOfRange) ∨
    (s.pkIndex.toNat + 4 ≤ s.dataLen.toNat ∧
      packBytes s bs = State.complete { s with
        ram := Memory.writeBytes s.ram s.pkIndex.toNat bs, cursor := BitVec.ofNat 32 (s.pkIndex.toNat + 4) }) := by
  unfold packBytes
  split
  · rename_i h; exact .inl ⟨h, rfl⟩
  · rename_i h; exact .inr ⟨by omega, rfl⟩

theorem execPack16_cases {s t : State} (h : exec .pack16 s = .next t) : t = packBytes s (frame16 s) :=
  (Host.Outcome.next.inj h).symm

theorem execPack32_cases {s t : State} (h : exec .pack32 s = .next t) : t = packBytes s (sample32 s) :=
  (Host.Outcome.next.inj h).symm

@[simp] theorem frame16_length (s : State) : (frame16 s).length = 4 := by simp [frame16]

@[simp] theorem sample32_length (s : State) : (sample32 s).length = 4 := by simp [sample32]

/-- A parse fails with OPEN_FAILURE, TRUNCATED_INPUT or, under STRICT_LAYOUT, UNSUPPORTED_LAYOUT. -/
theorem parseBlocks_error {strict : Bool} {src : Source} {p : Preamble} {e : ParseError} (h : parseBlocks strict src p = .error e) :
    e.code = .truncatedInput ∧ (e.cursor = 20 ∨ 16 ≤ p.fmtBlk.toInt ∧ e.cursor = 20 + p.fmtBlk.toInt.toNat) ∨
    strict = true ∧ e.code = .unsupportedLayout ∧ 16 ≤ p.fmtBlk.toInt ∧ e.cursor = 28 + p.fmtBlk.toInt.toNat := by
  unfold parseBlocks at h
  split at h
  · cases h; exact .inl ⟨rfl, .inl rfl⟩
  · rename_i hb
    have hb : 16 ≤ p.fmtBlk.toInt := by omega
    split at h
    · cases h; exact .inl ⟨rfl, .inl rfl⟩
    · split at h
      · cases h; exact .inl ⟨rfl, .inr ⟨hb, rfl⟩⟩
      · split at h
        · rename_i hs
          cases h
          exact .inr ⟨(Bool.and_eq_true_iff.mp hs).1, rfl, hb, rfl⟩
        · cases h

/-- The preamble fails only with TRUNCATED_INPUT, at offset 0, 4 or 8. -/
theorem parsePreamble_error {src : Source} {e : ParseError} (h : parsePreamble src = .error e) :
    e.code = .truncatedInput ∧ (e.cursor = 0 ∨ e.cursor = 4 ∨ e.cursor = 8) := by
  unfold parsePreamble at h
  split at h
  · cases h; exact ⟨rfl, .inl rfl⟩
  · split at h
    · cases h; exact ⟨rfl, .inr (.inl rfl)⟩
    · split at h
      · cases h; exact ⟨rfl, .inr (.inr rfl)⟩
      · cases h

/-- Which agent a step belongs to, and what it then is (R20). -/
theorem step_cases (s : State) :
    (engineMoves s = true ∧ s.status.busy = true ∧
      ((∃ i, decodeWord s.latched = .ok i ∧ step s = exec i s) ∨
       (∃ e, decodeWord s.latched = .error e ∧ step s = .next (s.raise .illegalCommand)))) ∨
    (engineMoves s = false ∧ s.host = [] ∧ step s = .next s) ∨
    (engineMoves s = false ∧ ∃ op rest, s.host = op :: rest ∧
      step s = runHostOp op { s with host := rest, engineDelay := s.engineDelay - 1 }) := by
  unfold step
  cases hm : engineMoves s with
  | true =>
    refine .inl ⟨rfl, (Bool.and_eq_true_iff.mp hm).1, ?_⟩
    simp only [if_true, engineTurn, fetchWord]
    cases hd : decodeWord s.latched with
    | ok i => exact .inl ⟨i, rfl, rfl⟩
    | error e => exact .inr ⟨e, rfl, rfl⟩
  | false =>
    simp only [Bool.false_eq_true, if_false, hostTurn]
    cases hh : s.host with
    | nil => exact .inr (.inl ⟨trivial, rfl, rfl⟩)
    | cons op rest => exact .inr (.inr ⟨trivial, op, rest, rfl, rfl⟩)

end Sys2Proof.Machine
end

