-- ==== Sys2Proof/Laws/PerInstr.lean ====
section
/-! SUPPORT. Statements made per command: the word a command encodes to is a legal command word (R87). -/

namespace Sys2Proof

/-- The encoded word of a command is legal: RSVD = 0 and OP in 0x00 to 0x06 (R87). -/
def Laws.EncodedWord.Statement (i : Instr) : Prop := commandWordWf (encode i) = true

theorem Laws.EncodedWord.nop : Laws.EncodedWord.Statement .nop := by unfold Laws.EncodedWord.Statement; decide
theorem Laws.EncodedWord.loadDefault : Laws.EncodedWord.Statement .loadDefault := by unfold Laws.EncodedWord.Statement; decide
theorem Laws.EncodedWord.decodeHdr : Laws.EncodedWord.Statement .decodeHdr := by unfold Laws.EncodedWord.Statement; decide
theorem Laws.EncodedWord.readData : Laws.EncodedWord.Statement .readData := by unfold Laws.EncodedWord.Statement; decide
theorem Laws.EncodedWord.encodeHdr : Laws.EncodedWord.Statement .encodeHdr := by unfold Laws.EncodedWord.Statement; decide
theorem Laws.EncodedWord.pack16 : Laws.EncodedWord.Statement .pack16 := by unfold Laws.EncodedWord.Statement; decide
theorem Laws.EncodedWord.pack32 : Laws.EncodedWord.Statement .pack32 := by unfold Laws.EncodedWord.Statement; decide

end Sys2Proof
end

