-- ==== Sys2Proof/Laws/Run.lean ====
section
/-! SUPPORT. A run of the machine, one step taken off its front, and the state its last host operation leaves. -/

namespace Sys2Proof.Machine

/-- A run of `n + 1` steps whose first step answers `u` is the run of `n` steps from `u`. -/
theorem core_run_next (n : Nat) (s u : State) (h : step s = .next u) : core.run (n + 1) s = core.run n u := by
  have h' : core.step s = .next u := h
  simp only [Host.Core.run, h']

/-- Where the host has no operation left, the run's last host operation is behind it. -/
theorem lastHostState_done (n : Nat) (s : State) (h : s.host = []) : lastHostState n s = some s := by
  cases n <;> simp [lastHostState, h]

/-- Otherwise a next state is searched from the state the step answers. -/
theorem lastHostState_next (n : Nat) (s u : State) (hh : s.host ≠ []) (h : step s = .next u) :
    lastHostState (n + 1) s = lastHostState n u := by
  simp [lastHostState, hh, h]

/-- What `lastHostState` finds is the first state of the run whose host has no operation left. -/
theorem lastHostState_eq_some (n : Nat) (s t : State) :
    lastHostState n s = some t ↔
      ∃ k, k ≤ n ∧ core.run k s = .next t ∧ t.host = [] ∧ ∀ j, j < k → ∀ u : State, core.run j s = .next u → u.host ≠ [] := by
  induction n generalizing s with
  | zero =>
    constructor
    · intro h
      by_cases hh : s.host = []
      · rw [lastHostState_done _ _ hh] at h
        cases h
        exact ⟨0, Nat.le_refl _, rfl, hh, fun j hj => absurd hj (Nat.not_lt_zero j)⟩
      · simp [lastHostState, hh] at h
    · rintro ⟨k, hk, hr, ht, -⟩
      obtain rfl : k = 0 := Nat.le_zero.mp hk
      cases hr
      exact lastHostState_done _ _ ht
  | succ n ih =>
    by_cases hh : s.host = []
    · rw [lastHostState_done _ _ hh]
      constructor
      · intro h
        cases h
        exact ⟨0, Nat.zero_le _, rfl, hh, fun j hj => absurd hj (Nat.not_lt_zero j)⟩
      · rintro ⟨k, -, hr, -, hf⟩
        cases k with
        | zero => cases hr; rfl
        | succ k => exact absurd hh (hf 0 (Nat.succ_pos k) s rfl)
    · cases hs : step s with
      | next u =>
        rw [lastHostState_next _ _ _ hh hs, ih]
        constructor
        · rintro ⟨k, hk, hr, ht, hf⟩
          refine ⟨k + 1, Nat.succ_le_succ hk, (core_run_next k s u hs).trans hr, ht, fun j hj v hv => ?_⟩
          cases j with
          | zero => cases hv; exact hh
          | succ j => exact hf j (Nat.lt_of_succ_lt_succ hj) v ((core_run_next j s u hs).symm.trans hv)
        · rintro ⟨k, hk, hr, ht, hf⟩
          cases k with
          | zero => cases hr; exact absurd ht hh
          | succ k =>
            exact ⟨k, Nat.le_of_succ_le_succ hk, (core_run_next k s u hs).symm.trans hr, ht,
              fun j hj v hv => hf (j + 1) (Nat.succ_lt_succ hj) v ((core_run_next j s u hs).trans hv)⟩
      | fault f =>
        constructor
        · intro h; simp [lastHostState, hh, hs] at h
        · rintro ⟨k, -, hr, ht, -⟩
          cases k with
          | zero => cases hr; exact absurd ht hh
          | succ k =>
            have hc : core.step s = .fault f := hs
            simp [Host.Core.run, hc] at hr
      | refused r =>
        constructor
        · intro h; simp [lastHostState, hh, hs] at h
        · rintro ⟨k, -, hr, ht, -⟩
          cases k with
          | zero => cases hr; exact absurd ht hh
          | succ k =>
            have hc : core.step s = .refused r := hs
            simp [Host.Core.run, hc] at hr

end Sys2Proof.Machine
end

