-- ==== Sys2Proof/Tests/Slice0.lean ====
section
/-! SUPPORT. The model's own tests. Expected values are those of spec/95_test_vectors.md (named V-… and P-…) or written out by hand from
the rule cited; the `witness_…` theorems show states and operands that meet the hypotheses of the obligation they are named after. -/

namespace Sys2Proof.Tests

open Sys2Proof.Machine

/-! ### Helpers -/

/-- The vectors' start: reset with DATA_CAP = 64 and STRICT_LAYOUT = 0 (95_test_vectors.md, conventions). -/
def base : State := { State.reset with params := ⟨64, false⟩ }

/-- The same under STRICT_LAYOUT = 1. -/
def strict : State := { base with params := ⟨64, true⟩ }

/-- What a step shows of its next state; none for a fault or a refusal. -/
def shown {α : Type} (o : Host.Outcome State Fault Refusal) (f : State → α) : Option α :=
  match o with
  | .next t => some (f t)
  | .fault _ => none
  | .refused _ => none

/-- The next state of an outcome that is one. -/
def nextOr (s : State) (o : Host.Outcome State Fault Refusal) : State :=
  match o with
  | .next t => t
  | .fault _ => s
  | .refused _ => s

/-- A state in which the command word `w` has just been issued. -/
def issued (s : State) (w : Nat) : State := s.withFetchWord 32 w

/-- STATUS and CURSOR as the host reads them. -/
def statusCursor (s : State) : Word × Word := (readReg s .status, readReg s .cursor)

/-- S_LE, the 44 bytes of V-ENC-1. -/
def sLE : List Byte :=
  [0x52, 0x49, 0x46, 0x46, 0x2C, 0x00, 0x00, 0x00, 0x57, 0x41, 0x56, 0x45, 0x66, 0x6D, 0x74, 0x20] ++
  [0x10, 0x00, 0x00, 0x00, 0x01, 0x00, 0x02, 0x00, 0x44, 0xAC, 0x00, 0x00, 0x10, 0xB1, 0x02, 0x00] ++
  [0x04, 0x00, 0x10, 0x00, 0x64, 0x61, 0x74, 0x61, 0x00, 0x00, 0x00, 0x00]

/-- S_4 of section 4: S_LE with dataSize 4, then 01 02 03 04. -/
def s4 : List Byte := sLE.take 40 ++ [0x04, 0x00, 0x00, 0x00, 0x01, 0x02, 0x03, 0x04]

/-- The source of program P2 with the two trailing format-block bytes `x` and `y` (EE FF in P2). -/
def sP2 (x y : Byte) : List Byte :=
  [0x52, 0x49, 0x46, 0x58, 0x00, 0x00, 0x00, 0x2A, 0x57, 0x41, 0x56, 0x45, 0x66, 0x6D, 0x74, 0x20] ++
  [0x00, 0x00, 0x00, 0x12, 0x00, 0x01, 0x00, 0x01, 0x00, 0x00, 0x1F, 0x40, 0x00, 0x00, 0x3E, 0x80] ++
  [0x00, 0x02, 0x00, 0x10, x, y, 0x64, 0x61, 0x74, 0x61, 0x00, 0x00, 0x00, 0x04, 0x12, 0x34, 0xAB, 0xCD]

/-- `s` with a present source holding `bs`. -/
def withSource (s : State) (bs : List Byte) : State := { s with source := ⟨true, bs⟩ }

/-- The default header, with a present sink of capacity 48. -/
def built : State := { base with hdr := defaultHeader, sink := ⟨true, 48, []⟩ }

/-- P4 before its ENCODE: the default header under "RIFX", DATA = 12 34 56 78, a sink of capacity 48. -/
def p4 : State :=
  { built with
    hdr := { defaultHeader with ctag := tagRIFX }
    dataLen := 4
    ram := [(0, 0x12), (1, 0x34), (2, 0x56), (3, 0x78)] }

/-- The default header and `len` bytes of zeros, PK_INDEX and PK_SAMPLE as given. -/
def packState (tag : Tag) (len idx sample : Word) : State :=
  { base with hdr := { defaultHeader with ctag := tag }, dataLen := len, pkIndex := idx, pkSample := sample }

/-- DATA[0 .. n−1]. -/
def dataOf (n : Nat) (s : State) : List Byte := Memory.readBytes s.ram 0 n

/-! ### Decoding, from the words of R87 and R88 -/

theorem test_decode_nop : decodeWord 0x00000000#32 = .ok .nop := by decide
theorem test_decode_default : decodeWord 0x00000001#32 = .ok .loadDefault := by decide
theorem test_decode_decode : decodeWord 0x00000002#32 = .ok .decodeHdr := by decide
theorem test_decode_read_data : decodeWord 0x00000003#32 = .ok .readData := by decide
theorem test_decode_encode : decodeWord 0x00000004#32 = .ok .encodeHdr := by decide
theorem test_decode_pack16 : decodeWord 0x00000005#32 = .ok .pack16 := by decide
theorem test_decode_pack32 : decodeWord 0x00000006#32 = .ok .pack32 := by decide
theorem test_decode_reserved_opcode : decodeWord 0x00000007#32 = .error .reservedOpcode := by decide
theorem test_decode_reserved_bits : decodeWord 0x00000102#32 = .error .reservedBits := by decide
theorem test_table_word : decodeTableWord 32 0x00000005 = some .pack16 ∧ decodeTableWord 32 0x80000001 = none := by decide
theorem test_table_word_longer : decodeTableWord 64 0x100000001 = none := by decide

/-! ### Well-formedness: an ill-formed term for each check -/

/-- RSVD ≠ 0 is refused (R88). -/
theorem test_wf_reserved_bits : commandWordWf 0x00000102#32 = false ∧ commandWordWf 0x00000002#32 = true := by decide
/-- OP = 0x07 is refused (R88). -/
theorem test_wf_reserved_opcode : commandWordWf 0x00000007#32 = false ∧ commandWordWf 0x00000006#32 = true := by decide
/-- A 16-bit access is refused (R23). -/
theorem test_wf_width : HostOp.wf (.regWrite 16 0x00 0) = false ∧ HostOp.wf (.regWrite 32 0x00 0) = true := by decide
/-- A misaligned access is refused (R23). -/
theorem test_wf_misaligned : HostOp.wf (.regRead 32 0x02) = false ∧ HostOp.wf (.regRead 32 0x04) = true := by decide
/-- An access above 0xFC is refused (R23). -/
theorem test_wf_offset : HostOp.wf (.regRead 32 0x100) = false ∧ HostOp.wf (.regRead 32 0xFC) = true := by decide
/-- A source of 2^32 bytes is refused (R5). -/
theorem test_wf_source (bs : List Byte) (h : bs.length = 4294967296) : HostOp.wf (.presentSource true bs) = false := by
  show decide (bs.length < 4294967296) = false
  rw [h]
  decide
/-- A command carries no field that could be ill formed (R86). -/
theorem test_wf_command : ∀ i : Instr, i.wf = true := fun _ => rfl

/-! ### The commands -/

/-- R151's example: after an error NOP leaves ERR = 0, ERRCODE = 0, STICKY = 1 (V-CMD's last row). -/
theorem test_nop_keeps_sticky :
    shown (step (issued { base with status := ⟨false, true, true, .illegalCommand, true, 0x07⟩ } 0x00)) (readReg · .status)
      = some 0x00000102#32 := by decide

/-- V-CMD: NOP from reset. -/
theorem test_nop_status : shown (step (issued base 0x00)) statusCursor = some (0x00000002#32, 0#32) := by decide

/-- V-DEF, V-SRC-2. -/
theorem test_default_status :
    shown (step (issued { base with dataLen := 5, cursor := 9 } 0x01)) (fun t => (statusCursor t, t.dataLen, readReg t .info))
      = some ((0x00010002#32, 0#32), 0#32, 0x00000020#32) := by decide

/-- V-SRC-2. -/
theorem test_default_header :
    shown (step (issued base 0x01)) (fun t => [readReg t .hCtag, readReg t .hFileSize, readReg t .hByteRate, readReg t .hBps])
      = some [0x46464952#32, 0x0000002C#32, 0x0002B110#32, 0x00000010#32] := by decide

/-- Program P2, line 2: a big-endian source with a padded format block. -/
theorem test_decode_padded :
    shown (step (issued (withSource base (sP2 0xEE 0xFF)) 0x02))
        (fun t => (statusCursor t, [readReg t .hFmtBlk, readReg t .hSRate, readReg t .hDataSize, readReg t .info]))
      = some ((0x00020002#32, 46#32), [0x12#32, 0x1F40#32, 4#32, 0x421#32]) := by decide

/-- V-DEC-4, n = 43: the data-marker read is short, and no header is committed. -/
theorem test_decode_truncated :
    shown (step (issued (withSource base (sLE.take 43)) 0x02)) (fun t => (statusCursor t, t.hdr))
      = some ((0x00020126#32, 36#32), Header.reset) := by decide

/-- V-RD-1, from its state after DECODE. -/
theorem test_read_data :
    shown (step (issued (withSource { built with cursor := 44, hdr := { defaultHeader with dataSize := 4 } } s4) 0x03))
        (fun t => (statusCursor t, t.dataLen, dataOf 4 t))
      = some ((0x00030002#32, 48#32), 4#32, [0x01, 0x02, 0x03, 0x04]) := by decide

/-- V-RD-4: dataSize 65 > DATA_CAP 64. -/
theorem test_read_data_out_of_range :
    shown (step (issued (withSource { built with cursor := 44, hdr := { defaultHeader with dataSize := 65 } } s4) 0x03))
        (fun t => (statusCursor t, t.dataLen))
      = some ((0x00030156#32, 44#32), 0#32) := by decide

/-- Program P4, line 10: 44 + L = DST_CAP exactly, big-endian. -/
theorem test_encode :
    shown (step (issued p4 0x04)) (fun t => (statusCursor t, t.hdr.dataSize, t.sink.bytes.take 20))
      = some ((0x00040002#32, 48#32), 4#32,
        [0x52, 0x49, 0x46, 0x58, 0x00, 0x00, 0x00, 0x30, 0x57, 0x41, 0x56, 0x45, 0x66, 0x6D, 0x74, 0x20,
          0x00, 0x00, 0x00, 0x10]) ∧
    shown (step (issued p4 0x04)) (·.sink.bytes.drop 20)
      = some ([0x00, 0x01, 0x00, 0x02, 0x00, 0x00, 0xAC, 0x44, 0x00, 0x02, 0xB1, 0x10, 0x00, 0x04, 0x00, 0x10] ++
        [0x64, 0x61, 0x74, 0x61, 0x00, 0x00, 0x00, 0x04, 0x12, 0x34, 0x56, 0x78]) :=
  ⟨by decide, by decide⟩

/-- V-ENC-7: a stale H_DATASIZE is overwritten, a longer sink is not truncated. -/
theorem test_encode_keeps_longer_sink :
    shown (step (issued { built with
        hdr := { defaultHeader with dataSize := 999 }, sink := ⟨true, 100, List.replicate 50 0xAA⟩ } 0x04))
        (fun t => (statusCursor t, t.hdr.dataSize, t.sink.bytes.drop 40))
      = some ((0x00040002#32, 44#32), 0#32, [0x00, 0x00, 0x00, 0x00, 0xAA, 0xAA, 0xAA, 0xAA, 0xAA, 0xAA]) := by decide

/-- Section 6: PACK16 of 0x00012345 under "RIFX", bits [31:16] ignored. -/
theorem test_pack16_be :
    shown (step (issued (packState tagRIFX 4 0 0x00012345) 0x05)) (fun t => (statusCursor t, dataOf 4 t))
      = some ((0x00050002#32, 4#32), [0x23, 0x45, 0x23, 0x45]) := by decide

/-- V-PK-B, last row: s + 4 is computed without wrap. -/
theorem test_pack16_no_wrap :
    shown (step (issued (packState tagRIFF 4 0xFFFFFFFE 0x7D00) 0x05)) (fun t => (statusCursor t, dataOf 4 t))
      = some ((0x00050156#32, 0#32), [0, 0, 0, 0]) := by decide

/-- Section 6: PACK32 of 0x12345678 under "RIFF". -/
theorem test_pack32_le :
    shown (step (issued (packState tagRIFF 4 0 0x12345678) 0x06)) (fun t => (statusCursor t, dataOf 4 t))
      = some ((0x00060002#32, 4#32), [0x78, 0x56, 0x34, 0x12]) := by decide

/-- V-PK-B, third row, for PACK32: an odd index. -/
theorem test_pack32_odd_index :
    shown (step (issued (packState tagRIFX 5 1 0x12345678) 0x06)) (fun t => (statusCursor t, dataOf 5 t))
      = some ((0x00060002#32, 5#32), [0x00, 0x12, 0x34, 0x56, 0x78]) := by decide

/-- V-CMD: an illegal word whose low byte is a legal opcode. -/
theorem test_illegal_word : shown (step (issued base 0x102)) statusCursor = some (0x00020176#32, 0#32) := by decide

/-! ### Combinational functions and the ports -/

/-- V-SRC-1. -/
theorem test_sample_rate_bytes :
    enc32 0x0000AC44#32 .le = [0x44, 0xAC, 0x00, 0x00] ∧ enc32 0x0000AC44#32 .be = [0x00, 0x00, 0xAC, 0x44] := by decide

/-- V-ORD. -/
theorem test_order :
    resolveOrder tagRIFF = .le ∧ resolveOrder tagRIFX = .be ∧ resolveOrder ⟨0x52, 0x49, 0x46, 0x66⟩ = .be ∧
    resolveOrder ⟨0, 0, 0, 0x46⟩ = .le := by decide

/-- V-SRC-4. -/
theorem test_sample_width :
    [0x0008#16, 0x0010#16, 0x0020#16, 0x0018#16, 0xFFFF#16, 0xFFF0#16, 0x0108#16].map sampleWidth = [1, 2, 4, 4, 4, 4, 4] := by
  decide

/-- V-INFO, first row. -/
theorem test_info_reset : readReg State.reset .info = 0x00000341#32 := by decide

/-- V-DL, step 5: byte 5 is zero-filled when DATA_LEN grows again. -/
theorem test_data_len_growth :
    shown (runHostOp (opWr 0x0C 8) { base with params := ⟨8, false⟩, dataLen := 4, ram := [(5, 0x55)] }) (dataOf 8)
      = some [0, 0, 0, 0, 0, 0, 0, 0] := by decide

/-- V-DL, step 4: a value above DATA_CAP is ignored. -/
theorem test_data_len_above_cap :
    shown (runHostOp (opWr 0x0C 9) { base with params := ⟨8, false⟩, dataLen := 4 }) (readReg · .dataLen) = some 4#32 := by decide

/-- V-DL, last line: the data port beyond DATA_LEN. -/
theorem test_data_port_beyond :
    shown (runHostOp (.dataRead 6) { base with dataLen := 4, ram := [(6, 0x55)] }) (·.response) = some (.byte 0x00#8) ∧
    shown (runHostOp (.dataWrite 6 0x11) { base with dataLen := 4 }) (·.ram) = some [] := by decide

/-- R33: a reserved offset reads 0 and ignores writes. -/
theorem test_reserved_offset :
    shown (runHostOp (opRd 0x58) base) (·.response) = some (.word 0#32) ∧ nextOr base (runHostOp (opWr 0xFC 7) base) = base := by
  decide

/-- R37: a 16-bit register keeps bits [15:0] and reads zero-extended. -/
theorem test_half_register :
    shown (runHostOp (opWr 0x48 0xABCDFFF0) base) (readReg · .hBps) = some 0x0000FFF0#32 := by decide

/-- R36: byte k of a tag is at bits [8k+7:8k]; "RIFX" reads as 0x58464952. -/
theorem test_tag_register : tagToReg tagRIFX = 0x58464952#32 ∧ tagOfReg 0x58464952#32 = tagRIFX := by decide

/-- R92: the expansions. -/
theorem test_pseudo :
    progSave = [.regWrite 32 0 4#32, .poll] ∧ progBuildDefault = [.regWrite 32 0 1#32, .poll] ∧
    progLoad = [.regWrite 32 0 2#32, .poll, .stopOnErr, .regWrite 32 0 3#32, .poll] ∧
    progTone 32000 0 = [.regWrite 32 0x14 0x7D00#32, .regWrite 32 0x10 0#32, .regWrite 32 0 5#32, .poll] := by decide

/-- R222: a run that ends with a write while BUSY = 0 has ended well; one that ends with a CMD write has not, however long it goes on. -/
theorem test_run_ends_well :
    runEndsWell 3 { base with host := [opWr 0x10 7] } = true ∧ runEndsWell 3 { base with host := [opCmd .nop] } = false ∧
    runEndsWell 3 { issued base 0 with host := [opRd 0x04], engineDelay := 1 } = false ∧
    runEndsWell 3 { issued base 0 with host := [opRd 0x04] } = true := by decide

/-- R222: a run with a model fault has not ended well. -/
theorem test_run_with_fault : runEndsWell 3 { base with host := [.regRead 16 0x04] } = false := by decide

/-! ### Placing a word: the very next step runs it, from reset -/

/-- ENCODE stands apart: which error it ends in right after reset depends on STRICT_LAYOUT, which is open (R5). -/
theorem test_placed_words_run :
    (∀ w ∈ [0, 1, 2, 3, 5, 6], shown (step (State.reset.withFetchWord 32 w)) (·.status.busy) = some false) ∧
    ∃ t, step (State.reset.withFetchWord 32 4) = .next t :=
  ⟨by decide, _, rfl⟩

/-! ### Witnesses: what meets the hypotheses of each obligation that has some -/

/-- The invariant at a concrete state is a decidable fact. -/
theorem inv_of (s : State)
    (h : s.dataLen.toNat ≤ s.params.dataCap.val ∧ Memory.wf s.ram ∧ Memory.below s.ram s.params.dataCap.val ∧
      (s.status.busy = true → s.status.done = false) ∧ (s.status.err = true → s.status.done = true ∧ s.status.sticky = true) ∧
      (s.status.err = false ↔ s.status.errcode = .none) ∧ s.status.lastop = opField s.latched ∧
      s.src.bytes.length < 4294967296) : MachineInv s :=
  ⟨⟨h.1, h.2.1, h.2.2.1⟩, ⟨h.2.2.2.1, h.2.2.2.2.1, h.2.2.2.2.2.1, h.2.2.2.2.2.2.1⟩, h.2.2.2.2.2.2.2⟩

theorem witness_StepRunsTheLatchedCommand :
    (issued base 2).status.busy = true ∧ (issued base 2).engineDelay = 0 ∧ decodeWord (issued base 2).latched = .ok .decodeHdr ∧
    Instr.wf .decodeHdr = true ∧
    (issued base 7).status.busy = true ∧ (issued base 7).host = [] ∧ decodeWord (issued base 7).latched = .error .reservedOpcode := by
  decide

theorem witness_StepRunsTheHostsOperation :
    ({ base with host := [.poll] } : State).host = .poll :: [] ∧ base.status.busy = false ∧
    ({ issued base 2 with host := [.reset], engineDelay := 1 } : State).status.busy = true ∧
    ({ issued base 2 with host := [.reset], engineDelay := 1 } : State).engineDelay ≠ 0 := by decide

/-- The lowest and the highest reserved opcode, and the lowest reserved bit. -/
theorem witness_IllegalWordRaisesIllegalCommand :
    (MachineInv (issued base 0x07) ∧ MachineInv (issued base 0xFF) ∧ MachineInv (issued base 0x100)) ∧
    (issued base 0x07).status.busy = true ∧ (issued base 0x07).host = [] ∧
    7 ≤ ((issued base 0x07).latched.extractLsb' 0 8).toNat ∧ 7 ≤ ((issued base 0xFF).latched.extractLsb' 0 8).toNat ∧
    (issued base 0x100).latched.extractLsb' 8 24 ≠ 0#24 :=
  ⟨⟨inv_of _ (by decide), inv_of _ (by decide), inv_of _ (by decide)⟩, by decide⟩

theorem witness_DecodeOfEncodeIsTheCommand : Instr.wf .pack32 = true ∧ encode .pack32 = 6#32 := by decide

theorem witness_ByteOrderPrimitivesInvert :
    (enc16 0xAC44#16 .le).getD 1 0 = 0xAC#8 ∧ (enc32 0x12345678#32 .be).getD 3 0 = 0x78#8 ∧
    ([0x01, 0x02] : List Byte).length = 2 ∧ ([0x01, 0x02, 0x03, 0x04] : List Byte).length = 4 := by decide

theorem witness_FourthByteResolvesTheOrder : tagRIFF.b3 = 0x46#8 ∧ tagRIFX.b3 ≠ 0x46#8 ∧ (⟨0x52, 0x49, 0x46, 0x66⟩ : Tag).b3 ≠ 0x46#8 := by
  decide

theorem witness_SampleWidthMapping :
    (0x0008#16).toInt = 8 ∧ (0x0010#16).toInt = 16 ∧ (0x0018#16).toInt ≠ 8 ∧ (0x0018#16).toInt ≠ 16 ∧ (0xFFF8#16).toInt ≠ 8 := by decide

theorem witness_RegisterMapOffsets : 0x58 % 4 = 0 ∧ 0xFC % 4 = 0 ∧ regAt 32 0x58 = some .reserved ∧ regAt 32 0xFC = some .reserved := by
  decide

theorem witness_RefusedAccessIsRecorded : (16 : Nat) ≠ 32 ∧ (0x02 : Nat) % 4 ≠ 0 ∧ (0xFC : Nat) < 0x100 ∧
    shown (runHostOp (.regWrite 32 0x100 1) base) (·.faults) = some ⟨true, false⟩ ∧
    shown (runHostOp (.regWrite 16 0x20 1) (issued base 0)) (·.faults) = some ⟨true, false⟩ := by decide

theorem witness_CommandWriteIssues : base.status.busy = false ∧ (issued base 0).status.busy = true := by decide

/-- At DATA_CAP and one above. -/
theorem witness_DataLenWriteZeroFills :
    base.status.busy = false ∧ (64#32).toNat ≤ base.params.dataCap.val ∧ base.params.dataCap.val < (65#32).toNat := by decide

theorem witness_ReadOnlyRegistersIgnoreWrites :
    base.status.busy = false ∧ nextOr strict (runHostOp (opWr 0x1C 0) strict) = strict ∧
    shown (runHostOp (opRd 0x1C) strict) (·.response) = some (.word 1#32) := by decide

theorem witness_WrittenRegisterReadsBack :
    base.status.busy = false ∧ (0x10 ∈ [0x10, 0x14, 0x20, 0x24, 0x28, 0x2C, 0x30, 0x3C, 0x40, 0x4C, 0x50]) ∧
    (0x48 ∈ [0x34, 0x38, 0x44, 0x48]) := by decide

theorem witness_RegisterWriteFrame :
    base.status.busy = false ∧ regAt 32 0x20 = some .hCtag ∧ regAt 32 0x24 = some .hFileSize ∧ Reg.hFileSize ≠ .hCtag ∧
    Reg.hFileSize ≠ .info := by decide

/-- The last index below DATA_LEN and the first beyond. -/
theorem witness_DataPortStaysBelowDataLen : p4.status.busy = false ∧ Memory.wf p4.ram ∧ 3 < p4.dataLen.toNat ∧ ¬ 4 < p4.dataLen.toNat ∧
    shown (runHostOp (.dataRead 3) p4) (·.response) = some (.byte 0x78#8) ∧
    shown (runHostOp (.dataRead 4) p4) (·.response) = some (.byte 0x00#8) := by decide

theorem witness_BusyAccessIsHazard : (issued base 4).status.busy = true ∧ 0xFC % 4 = 0 ∧
    shown (runHostOp (.regWrite 32 0xFC 1) (issued base 4)) (·.faults) = some ⟨false, true⟩ := by decide

theorem witness_BusyRegisterReads :
    regAt 32 0x04 = some .status ∧ regAt 32 0x08 = some .cursor ∧ regAt 32 0xFC = some .reserved ∧ (issued base 0).status.busy = true ∧
    base.status.busy = false := by decide

theorem witness_ResourcesChangeBetweenCommandsOnly :
    sLE.length < 4294967296 ∧ built.sink.bytes.length < 4294967296 ∧ built.status.busy = false ∧ (issued built 4).status.busy = true := by
  decide

/-- One source at each line of R113's pseudocode: the offsets of V-DEC-4 to V-DEC-10. -/
theorem witness_DecodeFollowsTheLayout :
    ([sLE.take 3, sLE.take 4, sLE.take 8, sLE.take 20, sLE.take 36, sLE].map fun bs =>
      shown (exec .decodeHdr (withSource base bs)) fun t => (t.status.errcode, t.cursor)) =
    [some (.truncatedInput, 0#32), some (.truncatedInput, 4#32), some (.truncatedInput, 8#32), some (.truncatedInput, 20#32),
      some (.truncatedInput, 36#32), some (.none, 44#32)] ∧
    shown (exec .decodeHdr base) (fun t => (t.status.errcode, t.cursor)) = some (.openFailure, 0#32) ∧
    shown (exec .decodeHdr (withSource base (sLE.take 16 ++ [0x0F, 0, 0, 0] ++ sLE.drop 20 ++ sLE))) (fun t => (t.status.errcode, t.cursor))
      = some (.truncatedInput, 20#32) ∧
    shown (exec .decodeHdr (withSource strict (sLE.take 34 ++ [0x18, 0x00] ++ sLE.drop 36))) (fun t => (t.status.errcode, t.cursor))
      = some (.unsupportedLayout, 44#32) := by decide

theorem witness_DecodeCommitsTheHeader :
    (withSource strict sLE).src.present = true ∧ 16 ≤ (sourceFmtBlk sLE).toInt ∧ 28 + (sourceFmtBlk sLE).toInt.toNat ≤ sLE.length ∧
    unsupported (dec16 sLE 20 (sourceOrder sLE)) (dec16 sLE 34 (sourceOrder sLE)) = false := by decide

theorem witness_ShortSourceIsTruncated :
    (withSource base (sLE.take 43)).src.present = true ∧ (withSource base (sLE.take 43)).src.bytes.length < 44 ∧
    base.src.present = false ∧ ∃ t, exec .decodeHdr (withSource base sLE) = .next t ∧ base.status.err = false ∧ t.status.err = false :=
  ⟨by decide, by decide, by decide, _, rfl, by decide, by decide⟩

theorem sP2_other (o : Nat) (h : ¬ (36 ≤ o ∧ o < 38)) : (sP2 0x00 0x11).getD o 0 = (sP2 0xEE 0xFF).getD o 0 := by
  have small : ∀ o, o < 50 → ¬ (36 ≤ o ∧ o < 38) → (sP2 0x00 0x11).getD o 0 = (sP2 0xEE 0xFF).getD o 0 := by decide
  by_cases ho : o < 50
  · exact small o ho h
  · have h1 : (sP2 0x00 0x11).length ≤ o := Nat.not_lt.mp ho
    have h2 : (sP2 0xEE 0xFF).length ≤ o := Nat.not_lt.mp ho
    rw [List.getD_eq_getElem?_getD, List.getD_eq_getElem?_getD, List.getElem?_eq_none h1, List.getElem?_eq_none h2]

theorem witness_PaddedFormatBytesAreDiscarded :
    (withSource base (sP2 0xEE 0xFF)).shared = false ∧ (sP2 0x00 0x11).length = (sP2 0xEE 0xFF).length ∧
    (∀ o, ¬ (36 ≤ o ∧ o < 20 + (sourceFmtBlk (sP2 0xEE 0xFF)).toInt.toNat) → (sP2 0x00 0x11).getD o 0 = (sP2 0xEE 0xFF).getD o 0) ∧
    ∃ t, exec .decodeHdr (withSource base (sP2 0xEE 0xFF)) = .next t ∧ base.status.err = false ∧ t.status.err = false ∧
      16 < (sourceFmtBlk (withSource base (sP2 0xEE 0xFF)).src.bytes).toInt :=
  ⟨by decide, by decide, fun o h => sP2_other o h, _, rfl, by decide, by decide, by decide⟩

/-- 44 + L = DST_CAP exactly, under STRICT_LAYOUT too. -/
theorem witness_EncodeEmitsTheFile :
    44 + p4.dataLen.toNat ≤ 2147483647 ∧ unsupported p4.hdr.audioFmt p4.hdr.bps = false ∧ p4.sink.present = true ∧
    44 + p4.dataLen.toNat ≤ p4.sink.cap.val ∧ ¬ 45 + p4.dataLen.toNat ≤ p4.sink.cap.val := by decide

/-- V-ENC-8's and V-ENC-9's lengths, V-ENC-5's header, V-ENC-4's and V-ENC-3's sinks. -/
theorem witness_EncodeErrorsInOrder :
    2147483647 < 44 + (0x7FFFFFD4#32).toNat ∧ 44 + (0x7FFFFFD3#32).toNat ≤ 2147483647 ∧
    (strict.params.strictLayout = true ∧ unsupported 1#16 24#16 = true) ∧
    (base.sink.present = false ∧ ¬ (base.params.strictLayout = true ∧ unsupported base.hdr.audioFmt base.hdr.bps = true)) ∧
    ({ built with sink := ⟨true, 43, []⟩ } : State).sink.cap.val < 44 + built.dataLen.toNat := by decide

/-- The state of `test_read_data`, and one that breaks each check in turn. -/
theorem witness_ReadDataCopiesThePayload :
    MachineInv (withSource { built with cursor := 44, hdr := { defaultHeader with dataSize := 4 } } s4) ∧
    (withSource built s4).src.present = true ∧ base.src.present = false ∧
    (0xFFFFFFFF#32).toInt < 0 ∧ ((64 : Nat) : Int) < (65#32).toInt ∧ 0 ≤ (4#32).toInt ∧ (4#32).toInt ≤ ((64 : Nat) : Int) ∧
    ((44#32).toNat : Int) + (4#32).toInt ≤ s4.length ∧ (s4.length : Int) < (45#32).toNat + (4#32).toInt :=
  ⟨inv_of _ (by decide), by decide⟩

/-- The last index that fits and the first that does not. -/
theorem witness_Pack16WritesTheFrame :
    (8#32).toNat < (5#32).toNat + 4 ∧ (4#32).toNat + 4 ≤ (8#32).toNat ∧ Memory.wf (packState tagRIFF 8 4 0x7D00).ram ∧
    shown (exec .pack16 (packState tagRIFF 8 4 0x7D00)) (dataOf 8) = some [0, 0, 0, 0, 0x00, 0x7D, 0x00, 0x7D] := by decide

theorem witness_Pack32WritesTheSample :
    (8#32).toNat < (5#32).toNat + 4 ∧ (4#32).toNat + 4 ≤ (8#32).toNat ∧ Memory.wf (packState tagRIFX 8 4 0x12345678).ram ∧
    shown (exec .pack32 (packState tagRIFX 8 4 0x12345678)) (dataOf 8) = some [0, 0, 0, 0, 0x12, 0x34, 0x56, 0x78] := by decide

theorem witness_CommandsWriteOnlyWhatTheirRulesName :
    shown (exec .encodeHdr p4) (fun t => (t.ram, t.hdr == { p4.hdr with dataSize := 4 })) = some (p4.ram, true) ∧
    Instr.encodeHdr ≠ .readData ∧ Instr.encodeHdr ≠ .pack16 ∧ Instr.encodeHdr ≠ .pack32 := by decide

theorem witness_ErrorsChangeOnlyStatus :
    ∃ t, exec .readData base = .next t ∧ base.status.errcode = .none ∧ t.status.errcode ≠ .none ∧ t.status.errcode ≠ .shortWrite :=
  ⟨_, rfl, by decide, by decide, by decide⟩

theorem witness_ErrorCodesOfEachCommand :
    ∃ t, exec .encodeHdr { built with sink := ⟨true, 43, []⟩ } = .next t ∧ built.status.errcode = .none ∧
      t.status.errcode = .shortWrite ∧ built.params.strictLayout = false :=
  ⟨_, rfl, by decide, by decide, by decide⟩

/-- A success, DECODE's three kinds of error, and an error of another command. -/
theorem witness_CursorAfterEachCommand :
    (∃ t, MachineInv p4 ∧ exec .encodeHdr p4 = .next t ∧ p4.status.err = false ∧ t.status.err = false) ∧
    (∃ t, MachineInv base ∧ exec .decodeHdr base = .next t ∧ base.status.err = false ∧ t.status.errcode = .openFailure) ∧
    (∃ t, MachineInv (withSource base (sLE.take 43)) ∧ exec .decodeHdr (withSource base (sLE.take 43)) = .next t ∧
      t.status.errcode = .truncatedInput) ∧
    (∃ t, MachineInv (withSource strict (sLE.take 34 ++ [0x18, 0x00] ++ sLE.drop 36)) ∧
      exec .decodeHdr (withSource strict (sLE.take 34 ++ [0x18, 0x00] ++ sLE.drop 36)) = .next t ∧
      t.status.errcode = .unsupportedLayout) ∧
    (∃ t, MachineInv base ∧ exec .pack16 base = .next t ∧ t.status.err = true) :=
  ⟨⟨_, inv_of _ (by decide), rfl, by decide, by decide⟩, ⟨_, inv_of _ (by decide), rfl, by decide, by decide⟩,
    ⟨_, inv_of _ (by decide), rfl, by decide⟩, ⟨_, inv_of _ (by decide), rfl, by decide⟩, ⟨_, inv_of _ (by decide), rfl, by decide⟩⟩

/-- R47, R188: READ_DATA raises the same error whether or not STICKY is set. -/
theorem test_status_not_read :
    shown (exec .readData { base with status := ⟨true, false, false, .none, true, 3⟩ }) (·.status.errcode) = some .openFailure ∧
    shown (exec .readData { base with status := ⟨true, false, false, .none, false, 3⟩ }) (·.status.errcode) = some .openFailure := by
  decide

theorem witness_FileSizeRegisterIsNeverRead : ∃ t, exec .encodeHdr p4 = .next t ∧ t.hdr.fileSize = 44#32 := ⟨_, rfl, by decide⟩

theorem witness_ResetValues :
    base.status.busy = false ∧ (issued base 3).status.busy = true ∧ (issued base 3).latched ≠ 0x00000004#32 := by decide

theorem witness_ResetOverPendingEncode : (issued p4 4).status.busy = true ∧ (issued p4 4).latched = 0x00000004#32 := by decide

theorem witness_IdleBlockIsStill : p4.host = [] ∧ p4.status.busy = false := by decide

theorem witness_ModelFaultsAreNeverCleared :
    ∃ t, step { base with host := [.reset], faults := ⟨true, true⟩ } = .next t ∧ t.faults = ⟨true, true⟩ := ⟨_, rfl, rfl⟩

theorem witness_OnlyResetClearsSticky :
    ∃ t, step { base with host := [.reset], status := ⟨false, true, true, .outOfRange, true, 5⟩ } = .next t ∧ t.status.sticky = false :=
  ⟨_, rfl, rfl⟩

theorem witness_ParametersAreConstant : ∃ t, step (issued p4 1) = .next t ∧ t.params = ⟨64, false⟩ := ⟨_, rfl, rfl⟩

/-- A source of 2^32 bytes or more is refused, whatever its bytes. -/
theorem long_source_refused (bs : List Byte) (h : 4294967296 ≤ bs.length) :
    step { base with host := [.presentSource true bs] } = .refused .sourceTooLong :=
  if_pos h

theorem witness_StepsAreRefusedForResourcesOnly :
    step { issued base 3 with host := [.presentSource true []], engineDelay := 1 } = .refused .resourceWhileBusy ∧
    step { base with host := [.presentSource true (List.replicate 4294967296 0)] } = .refused .sourceTooLong :=
  ⟨rfl, long_source_refused _ (Nat.le_of_eq List.length_replicate.symm)⟩

/-- A run that its last operation, a CMD write, leaves busy, and a state with a model fault. -/
theorem witness_PendingCommandOrModelFaultSpoilsTheRun :
    (∃ t, ({ base with host := [opCmd .nop] } : State).host = [opCmd .nop] ∧ step { base with host := [opCmd .nop] } = .next t ∧
      t.host = [] ∧ t.status.busy = true) ∧
    (base.record .hostBadAccess).faults.hostBadAccess = true ∧ (base.record .hostHazard).faults.hostHazard = true :=
  ⟨⟨_, rfl, rfl, rfl, rfl⟩, rfl, rfl⟩

theorem witness_PolledCommandCompletes :
    ({ issued base 1 with host := [.poll], engineDelay := 2 } : State).status.busy = true ∧
    ({ issued base 1 with host := [.poll], engineDelay := 2 } : State).host = .poll :: [] := by decide

/-- Two RAMs that differ above DATA_LEN alone. -/
theorem witness_BytesAboveDataLenAreUnobservable :
    ∃ t, Memory.wf p4.ram ∧ Memory.wf ((p4.ram ++ [(9, 0x55)] : Memory)) ∧
      (∀ a, a < p4.dataLen.toNat → Memory.read (p4.ram ++ [(9, 0x55)]) a = Memory.read p4.ram a) ∧
      step (issued p4 4) = .next t :=
  ⟨_, by decide, by decide, by decide, rfl⟩

theorem witness_InvariantHoldsAtReset : sLE.length < 4294967296 := by decide

theorem witness_EveryStepKeepsTheInvariant : ∃ t, MachineInv (issued p4 4) ∧ step (issued p4 4) = .next t :=
  ⟨_, inv_of _ (by decide), rfl⟩

/-- Program P4. -/
theorem witness_EncodeThenDecodeGivesTheHeaderBack :
    MachineInv p4 ∧ p4.sink.present = true ∧ 44 + p4.dataLen.toNat ≤ p4.sink.cap.val ∧ 44 + p4.dataLen.toNat ≤ 2147483647 ∧
    ¬ (p4.params.strictLayout = true ∧ unsupported p4.hdr.audioFmt p4.hdr.bps = true) :=
  ⟨inv_of _ (by decide), by decide⟩

end Sys2Proof.Tests
end

section
/-! Scope (spec/00_scope.md): the byte-order primitives as inverses (R8), and the parameters as constants (R5, R21). -/

namespace Sys2Proof.Machine

/-! ### Byte order (R8) -/

theorem enc16_le_getD (v : Half) {i : Nat} (hi : i < 2) : (enc16 v .le).getD i 0 = v.extractLsb' (8 * i) 8 :=
  match i, hi with
  | 0, _ | 1, _ => rfl

theorem enc16_be_getD (v : Half) {i : Nat} (hi : i < 2) : (enc16 v .be).getD i 0 = v.extractLsb' (8 * (1 - i)) 8 :=
  match i, hi with
  | 0, _ | 1, _ => rfl

theorem enc32_le_getD (v : Word) {i : Nat} (hi : i < 4) : (enc32 v .le).getD i 0 = v.extractLsb' (8 * i) 8 :=
  match i, hi with
  | 0, _ | 1, _ | 2, _ | 3, _ => rfl

theorem enc32_be_getD (v : Word) {i : Nat} (hi : i < 4) : (enc32 v .be).getD i 0 = v.extractLsb' (8 * (3 - i)) 8 :=
  match i, hi with
  | 0, _ | 1, _ | 2, _ | 3, _ => rfl

@[simp] theorem dec16_enc16 (v : Half) (ord : ByteOrder) : dec16 (enc16 v ord) 0 ord = v := by
  cases ord with
  | le => exact join_extract (m := 8) (n := 8) v
  | be => exact join_extract (m := 8) (n := 8) v

@[simp] theorem dec32_enc32 (v : Word) (ord : ByteOrder) : dec32 (enc32 v ord) 0 ord = v := by
  cases ord with
  | le => exact join_bytes v
  | be => exact join_bytes v

/-- The two bytes of a joined half, lowest first. -/
theorem extract_half_bytes (a b : Byte) :
    BitVec.extractLsb' (n := 8 + 8) 0 8 (b ++ a) = a ∧ BitVec.extractLsb' (n := 8 + 8) 8 8 (b ++ a) = b := by
  constructor
  · rw [extract_join_low _ _ _ _ (by omega), extract_all]
  · rw [extract_join_high _ _ _ _ (by omega), extract_all]

theorem enc16_dec16 {bs : List Byte} (ord : ByteOrder) (h : bs.length = 2) : enc16 (dec16 bs 0 ord) ord = bs := by
  obtain ⟨a, b, rfl⟩ := List.length_eq_two.mp h
  cases ord with
  | le =>
    obtain ⟨ha, hb⟩ := extract_half_bytes a b
    simp [enc16, dec16, ha, hb]
  | be =>
    obtain ⟨hb, ha⟩ := extract_half_bytes b a
    simp [enc16, dec16, ha, hb]

theorem enc32_dec32 {bs : List Byte} (ord : ByteOrder) (h : bs.length = 4) : enc32 (dec32 bs 0 ord) ord = bs := by
  obtain ⟨a, b, c, d, rfl⟩ := List.length_eq_four.mp h
  cases ord with
  | le =>
    obtain ⟨ha, hb, hc, hd⟩ := extract_bytes a b c d
    simp [enc32, dec32, ha, hb, hc, hd]
  | be =>
    obtain ⟨hd, hc, hb, ha⟩ := extract_bytes d c b a
    simp [enc32, dec32, ha, hb, hc, hd]

/-- Settles O9: the bytes of each encoding are fields of the pattern, and joining the fields again gives it back (R8). -/
theorem byteOrderPrimitivesInvert : Obligations.ByteOrderPrimitivesInvert :=
  ⟨fun v _ hi => ⟨enc16_le_getD v hi, enc16_be_getD v hi⟩,
    fun v _ hi => ⟨enc32_le_getD v hi, enc32_be_getD v hi⟩,
    fun v ord => ⟨enc16_length v ord, dec16_enc16 v ord⟩,
    fun v ord => ⟨enc32_length v ord, dec32_enc32 v ord⟩,
    fun _ ord h => enc16_dec16 ord h,
    fun _ ord h => enc32_dec32 ord h,
    by decide, by decide⟩

/-! ### The parameters through the engine's commands (R5, R21) -/

@[simp] theorem packBytes_params (s : State) (bs : List Byte) : (packBytes s bs).params = s.params := by
  obtain ⟨-, h⟩ | ⟨-, h⟩ := packBytes_cases s bs <;> rw [h] <;> rfl

/-- No command, whether it completes or raises an error, writes the parameters. -/
theorem exec_params {i : Instr} {s t : State} (h : exec i s = .next t) : t.params = s.params := by
  cases i with
  | nop => rw [execNop_cases h]; rfl
  | loadDefault => rw [execLoadDefault_cases h]; rfl
  | decodeHdr => obtain ⟨hd, c, -, rfl⟩ | ⟨e, -, rfl⟩ := execDecodeHdr_cases h <;> rfl
  | readData =>
    obtain ⟨-, rfl⟩ | ⟨-, -, rfl⟩ | ⟨-, -, -, -, rfl⟩ | ⟨-, -, -, r, -, rfl⟩ := execReadData_cases h <;> rfl
  | encodeHdr =>
    obtain ⟨-, rfl⟩ | ⟨-, -, rfl⟩ | ⟨-, -, -, rfl⟩ | ⟨-, -, -, -, rfl⟩ | ⟨-, -, -, -, rfl⟩ := execEncodeHdr_cases h <;> rfl
  | pack16 => rw [execPack16_cases h, packBytes_params]
  | pack32 => rw [execPack32_cases h, packBytes_params]

/-! ### The parameters through the host's operations -/

@[simp] theorem writeDataLen_params (s : State) (v : Word) : (writeDataLen s v).params = s.params := by
  unfold writeDataLen
  split <;> rfl

@[simp] theorem writeReg_params (s : State) (r : Reg) (v : Word) : (writeReg s r v).params = s.params := by
  cases r with
  | dataLen => exact writeDataLen_params s v
  | _ => rfl

@[simp] theorem dataPortWrite_params (s : State) (i : Nat) (b : Byte) : (dataPortWrite s i b).params = s.params := by
  unfold dataPortWrite
  split <;> rfl

@[simp] theorem hostRegWrite_params (s : State) (width offset : Nat) (v : Word) :
    (hostRegWrite s width offset v).params = s.params := by
  unfold hostRegWrite
  split
  · simp
  · split <;> simp

@[simp] theorem hostRegRead_params (s : State) (width offset : Nat) : (hostRegRead s width offset).params = s.params := by
  unfold hostRegRead
  split
  · simp
  · split <;> simp

@[simp] theorem hostDataWrite_params (s : State) (i : Nat) (b : Byte) : (hostDataWrite s i b).params = s.params := by
  unfold hostDataWrite
  split <;> simp

@[simp] theorem hostDataRead_params (s : State) (i : Nat) : (hostDataRead s i).params = s.params := by
  unfold hostDataRead
  split <;> simp

@[simp] theorem hostPoll_params (s : State) : (hostPoll s).params = s.params := by
  unfold hostPoll
  dsimp only
  split <;> rfl

@[simp] theorem hostStopOnErr_params (s : State) : (hostStopOnErr s).params = s.params := by
  unfold hostStopOnErr
  dsimp only
  split <;> rfl

@[simp] theorem hostReset_params (s : State) : (hostReset s).params = s.params := rfl

/-- An operation reserved for an idle block answers a next state only there, and then the one asked for (R78, R215). -/
theorem refuseWhileBusy_eq_next {s t u : State} : refuseWhileBusy s t = .next u ↔ s.status.busy = false ∧ t = u := by
  unfold refuseWhileBusy
  split <;> simp [*]

theorem hostPresentSource_cases {s t : State} {present : Bool} {bytes : List Byte}
    (h : hostPresentSource s present bytes = .next t) :
    bytes.length < 4294967296 ∧ s.status.busy = false ∧ t = { s with source := ⟨present, bytes⟩, shared := false } := by
  unfold hostPresentSource at h
  split at h
  · cases h
  · obtain ⟨hb, rfl⟩ := refuseWhileBusy_eq_next.mp h
    exact ⟨by omega, hb, rfl⟩

theorem hostPresentSink_cases {s t : State} {present : Bool} {cap : Fin 4294967296} {bytes : List Byte}
    (h : hostPresentSink s present cap bytes = .next t) :
    s.status.busy = false ∧ t = { s with sink := ⟨present, cap, bytes⟩, source := s.src, shared := false } := by
  obtain ⟨hb, rfl⟩ := refuseWhileBusy_eq_next.mp h
  exact ⟨hb, rfl⟩

theorem hostConnect_cases {s t : State} (h : hostConnect s = .next t) :
    s.sink.bytes.length < 4294967296 ∧ s.status.busy = false ∧ t = { s with shared := true } := by
  unfold hostConnect at h
  split at h
  · cases h
  · obtain ⟨hb, rfl⟩ := refuseWhileBusy_eq_next.mp h
    exact ⟨by omega, hb, rfl⟩

theorem hostReadSink_cases {s t : State} (h : hostReadSink s = .next t) :
    s.status.busy = false ∧ t = s.respond (.sinkBytes s.sink.bytes) := by
  obtain ⟨hb, rfl⟩ := refuseWhileBusy_eq_next.mp h
  exact ⟨hb, rfl⟩

/-- No host operation writes the parameters, reset included (R210). -/
theorem runHostOp_params {op : HostOp} {s t : State} (h : runHostOp op s = .next t) : t.params = s.params := by
  cases op with
  | regWrite width offset v => cases h; exact hostRegWrite_params s width offset v
  | regRead width offset => cases h; exact hostRegRead_params s width offset
  | dataWrite i b => cases h; exact hostDataWrite_params s i b
  | dataRead i => cases h; exact hostDataRead_params s i
  | poll => cases h; exact hostPoll_params s
  | stopOnErr => cases h; exact hostStopOnErr_params s
  | reset => cases h; exact hostReset_params s
  | presentSource present bytes => obtain ⟨-, -, rfl⟩ := hostPresentSource_cases h; rfl
  | presentSink present cap bytes => obtain ⟨-, rfl⟩ := hostPresentSink_cases h; rfl
  | connect => obtain ⟨-, -, rfl⟩ := hostConnect_cases h; rfl
  | readSink => obtain ⟨-, rfl⟩ := hostReadSink_cases h; rfl

/-- Settles O49: the step is a command, an illegal word's error, an idle step or a host operation, and none writes the parameters. -/
theorem parametersAreConstant : Obligations.ParametersAreConstant := by
  intro s t h
  obtain ⟨-, -, ⟨i, -, hs⟩ | ⟨e, -, hs⟩⟩ | ⟨-, -, hs⟩ | ⟨-, op, rest, -, hs⟩ := step_cases s
  · exact exec_params (hs.symm.trans h)
  · cases hs.symm.trans h
    rfl
  · cases hs.symm.trans h
    rfl
  · have hp := runHostOp_params (hs.symm.trans h)
    exact hp

end Sys2Proof.Machine
end

section
/-! What each command answers, case by case, and the shape every answer has: the registers and memories its rule names are
written, and STATUS is that of a completion or of one raise (R45, R113, R120, R153 to R155, R181). -/

namespace Sys2Proof.Machine

/-! ### One equation per case of a command -/

theorem exec_decodeHdr_of_ok {s : State} {h : Header} {c : Nat} (hp : parseHeader s.params.strictLayout s.src = .ok (h, c)) :
    exec .decodeHdr s = .next (State.complete { s with hdr := h, cursor := BitVec.ofNat 32 c }) := by
  simp only [exec, execDecodeHdr, hp]

theorem exec_decodeHdr_of_error {s : State} {e : ParseError} (hp : parseHeader s.params.strictLayout s.src = .error e) :
    exec .decodeHdr s = .next (State.raise { s with cursor := BitVec.ofNat 32 e.cursor } e.code) := by
  simp only [exec, execDecodeHdr, hp]

theorem exec_readData_of_absent {s : State} (hp : s.src.present = false) : exec .readData s = .next (s.raise .openFailure) := by
  simp [exec, execReadData, hp]

theorem exec_readData_of_badSize {s : State} (hp : s.src.present = true)
    (hn : s.hdr.dataSize.toInt < 0 ∨ (s.params.dataCap.val : Int) < s.hdr.dataSize.toInt) :
    exec .readData s = .next (s.raise .outOfRange) := by
  simp [exec, execReadData, hp, hn]

theorem exec_readData_of_short {s : State} (hp : s.src.present = true) (h0 : 0 ≤ s.hdr.dataSize.toInt)
    (hn : s.hdr.dataSize.toInt ≤ (s.params.dataCap.val : Int))
    (hr : s.src.read s.cursor.toNat s.hdr.dataSize.toInt.toNat = none) :
    exec .readData s = .next (s.raise .truncatedInput) := by
  simp [exec, execReadData, hp, hr, Int.not_lt.mpr h0, Int.not_lt.mpr hn]

theorem exec_readData_of_read {s : State} {r : List Byte} (hp : s.src.present = true) (h0 : 0 ≤ s.hdr.dataSize.toInt)
    (hn : s.hdr.dataSize.toInt ≤ (s.params.dataCap.val : Int))
    (hr : s.src.read s.cursor.toNat s.hdr.dataSize.toInt.toNat = some r) :
    exec .readData s = .next (State.complete { s with
      ram := Memory.writeBytes s.ram 0 r
      dataLen := BitVec.ofNat 32 s.hdr.dataSize.toInt.toNat
      cursor := BitVec.ofNat 32 (s.cursor.toNat + s.hdr.dataSize.toInt.toNat) }) := by
  simp [exec, execReadData, hp, hr, Int.not_lt.mpr h0, Int.not_lt.mpr hn]

theorem exec_encodeHdr_of_overflow {s : State} (hl : 2147483647 < 44 + s.dataLen.toNat) :
    exec .encodeHdr s = .next (s.raise .lengthOverflow) := by
  simp [exec, execEncodeHdr, hl]

theorem exec_encodeHdr_of_unsupported {s : State} (hl : 44 + s.dataLen.toNat ≤ 2147483647)
    (hu : (s.params.strictLayout && unsupported s.hdr.audioFmt s.hdr.bps) = true) :
    exec .encodeHdr s = .next (s.raise .unsupportedLayout) := by
  simp only [exec, execEncodeHdr, if_neg (Nat.not_lt.mpr hl), hu, if_true]

theorem exec_encodeHdr_of_absent {s : State} (hl : 44 + s.dataLen.toNat ≤ 2147483647)
    (hu : (s.params.strictLayout && unsupported s.hdr.audioFmt s.hdr.bps) = false) (hp : s.sink.present = false) :
    exec .encodeHdr s = .next (s.raise .openFailure) := by
  simp only [exec, execEncodeHdr, if_neg (Nat.not_lt.mpr hl), hu, hp, Bool.false_eq_true, if_false, if_true]

theorem exec_encodeHdr_of_short {s : State} (hl : 44 + s.dataLen.toNat ≤ 2147483647)
    (hu : (s.params.strictLayout && unsupported s.hdr.audioFmt s.hdr.bps) = false) (hp : s.sink.present = true)
    (hc : s.sink.cap.val < 44 + s.dataLen.toNat) :
    exec .encodeHdr s = .next (encodeShort s) := by
  simp only [exec, execEncodeHdr, if_neg (Nat.not_lt.mpr hl), hu, hp, Bool.false_eq_true, Bool.true_eq_false, if_false, if_pos hc]

theorem exec_encodeHdr_of_fits {s : State} (hl : 44 + s.dataLen.toNat ≤ 2147483647)
    (hu : (s.params.strictLayout && unsupported s.hdr.audioFmt s.hdr.bps) = false) (hp : s.sink.present = true)
    (hc : 44 + s.dataLen.toNat ≤ s.sink.cap.val) :
    exec .encodeHdr s = .next (encodeCommit s) := by
  simp only [exec, execEncodeHdr, if_neg (Nat.not_lt.mpr hl), hu, hp, Bool.false_eq_true, Bool.true_eq_false, if_false,
    if_neg (Nat.not_lt.mpr hc)]

theorem packBytes_of_beyond {s : State} {bs : List Byte} (h : s.dataLen.toNat < s.pkIndex.toNat + 4) :
    packBytes s bs = s.raise .outOfRange :=
  if_pos h

theorem packBytes_of_fits {s : State} {bs : List Byte} (h : s.pkIndex.toNat + 4 ≤ s.dataLen.toNat) :
    packBytes s bs = State.complete { s with
      ram := Memory.writeBytes s.ram s.pkIndex.toNat bs, cursor := BitVec.ofNat 32 (s.pkIndex.toNat + 4) } :=
  if_neg (Nat.not_lt.mpr h)

/-- A failed parse carries a code that is an error (R113). -/
theorem parseHeader_error_code {strict : Bool} {src : Source} {e : ParseError} (h : parseHeader strict src = .error e) :
    e.code ≠ .none := by
  unfold parseHeader at h
  split at h
  · cases h; decide
  · split at h
    · rename_i hp
      cases h
      rw [(parsePreamble_error hp).1]
      decide
    · obtain ⟨hc, -⟩ | ⟨-, hc, -⟩ := parseBlocks_error h <;> rw [hc] <;> decide

/-! ### The shape of every answer -/

/-- STATUS at the end of a command that raised `o`, or none. -/
def endStatus (st : Status) (o : Option ErrCode) : Status :=
  match o with
  | none => completed st
  | some e => failed st e

@[simp] theorem endStatus_busy (st : Status) (o : Option ErrCode) : (endStatus st o).busy = false := by cases o <;> rfl
@[simp] theorem endStatus_done (st : Status) (o : Option ErrCode) : (endStatus st o).done = true := by cases o <;> rfl
@[simp] theorem endStatus_lastop (st : Status) (o : Option ErrCode) : (endStatus st o).lastop = st.lastop := by cases o <;> rfl

/-- No command clears STICKY (R188). -/
theorem endStatus_sticky {st : Status} (o : Option ErrCode) (h : st.sticky = true) : (endStatus st o).sticky = true := by
  cases o with
  | none => exact h
  | some e => rfl

/-- What a command may write apart from STATUS: `u` is `s` with new values in the places the rule of the command names. -/
def CommandWrites (i : Instr) (s u : State) : Prop :=
  match i with
  | .nop => u = s
  | .loadDefault => u = { s with hdr := defaultHeader, dataLen := 0, cursor := 0 }
  | .decodeHdr => ∃ h c, u = { s with hdr := h, cursor := c }
  | .readData => ∃ m n c, u = { s with ram := m, dataLen := n, cursor := c }
  | .encodeHdr => ∃ k n c d, u = { s with sink := k, hdr := { s.hdr with dataSize := n }, cursor := c, draws := d }
  | .pack16 | .pack32 => ∃ m c, u = { s with ram := m, cursor := c }

/-- A packer's answer, from every STATUS. -/
theorem packBytes_ends (s : State) (bs : List Byte) :
    ∃ u o, (∃ m c, u = { s with ram := m, cursor := c }) ∧ o ≠ some .none ∧
      ∀ st, packBytes { s with status := st } bs = { u with status := endStatus st o } := by
  obtain ⟨h, -⟩ | ⟨h, -⟩ := packBytes_cases s bs
  · exact ⟨s, some .outOfRange, ⟨_, _, rfl⟩, by decide, fun st => packBytes_of_beyond h⟩
  · exact ⟨{ s with ram := Memory.writeBytes s.ram s.pkIndex.toNat bs, cursor := BitVec.ofNat 32 (s.pkIndex.toNat + 4) }, none,
      ⟨_, _, rfl⟩, by decide, fun st => packBytes_of_fits h⟩

/-- Every command writes only what its rule names, and ends in one way, a completion or one raise, from every STATUS (R45, R47, R181). -/
theorem exec_ends (i : Instr) (s : State) :
    ∃ u o, CommandWrites i s u ∧ o ≠ some .none ∧
      ∀ st, exec i { s with status := st } = .next { u with status := endStatus st o } := by
  cases i with
  | nop => exact ⟨s, none, rfl, by decide, fun st => rfl⟩
  | loadDefault => exact ⟨_, none, rfl, by decide, fun st => rfl⟩
  | decodeHdr =>
    cases hp : parseHeader s.params.strictLayout s.src with
    | ok r => exact ⟨{ s with hdr := r.1, cursor := BitVec.ofNat 32 r.2 }, none, ⟨_, _, rfl⟩, by decide,
        fun st => exec_decodeHdr_of_ok hp⟩
    | error e =>
      exact ⟨{ s with cursor := BitVec.ofNat 32 e.cursor }, some e.code, ⟨_, _, rfl⟩,
        by simpa using parseHeader_error_code hp, fun st => exec_decodeHdr_of_error hp⟩
  | readData =>
    obtain ⟨hp, -⟩ | ⟨hp, hn, -⟩ | ⟨hp, h0, hn, hr, -⟩ | ⟨hp, h0, hn, r, hr, -⟩ := execReadData_cases (s := s) rfl
    · exact ⟨s, some .openFailure, ⟨_, _, _, rfl⟩, by decide, fun st => exec_readData_of_absent hp⟩
    · exact ⟨s, some .outOfRange, ⟨_, _, _, rfl⟩, by decide, fun st => exec_readData_of_badSize hp hn⟩
    · exact ⟨s, some .truncatedInput, ⟨_, _, _, rfl⟩, by decide, fun st => exec_readData_of_short hp h0 hn hr⟩
    · exact ⟨{ s with
          ram := Memory.writeBytes s.ram 0 r
          dataLen := BitVec.ofNat 32 s.hdr.dataSize.toInt.toNat
          cursor := BitVec.ofNat 32 (s.cursor.toNat + s.hdr.dataSize.toInt.toNat) }, none,
        ⟨_, _, _, rfl⟩, by decide, fun st => exec_readData_of_read hp h0 hn hr⟩
  | encodeHdr =>
    obtain ⟨hl, -⟩ | ⟨hl, hu, -⟩ | ⟨hl, hu, hp, -⟩ | ⟨hl, hu, hp, hc, -⟩ | ⟨hl, hu, hp, hc, -⟩ :=
      execEncodeHdr_cases (s := s) rfl
    · exact ⟨s, some .lengthOverflow, ⟨_, _, _, _, rfl⟩, by decide, fun st => exec_encodeHdr_of_overflow hl⟩
    · exact ⟨s, some .unsupportedLayout, ⟨_, _, _, _, rfl⟩, by decide, fun st => exec_encodeHdr_of_unsupported hl hu⟩
    · exact ⟨s, some .openFailure, ⟨_, _, _, _, rfl⟩, by decide, fun st => exec_encodeHdr_of_absent hl hu hp⟩
    · exact ⟨{ encodeShort s with status := s.status }, some .shortWrite, ⟨_, _, _, _, rfl⟩, by decide,
        fun st => exec_encodeHdr_of_short hl hu hp hc⟩
    · exact ⟨{ encodeCommit s with status := s.status }, none, ⟨_, _, _, _, rfl⟩, by decide,
        fun st => exec_encodeHdr_of_fits hl hu hp hc⟩
  | pack16 =>
    obtain ⟨u, o, hu, ho, he⟩ := packBytes_ends s (frame16 s)
    exact ⟨u, o, hu, ho, fun st => congrArg Host.Outcome.next (he st)⟩
  | pack32 =>
    obtain ⟨u, o, hu, ho, he⟩ := packBytes_ends s (sample32 s)
    exact ⟨u, o, hu, ho, fun st => congrArg Host.Outcome.next (he st)⟩

/-- The same of one answer: it is `u` with the STATUS of the ending. -/
theorem exec_next_ends {i : Instr} {s t : State} (h : exec i s = .next t) :
    ∃ u o, CommandWrites i s u ∧ o ≠ some .none ∧ t = { u with status := endStatus s.status o } := by
  obtain ⟨u, o, hu, ho, he⟩ := exec_ends i s
  exact ⟨u, o, hu, ho, Host.Outcome.next.inj (h.symm.trans (he s.status))⟩

/-- Outside the header, CURSOR, the Data buffer, the sink and the draws no command writes anything but STATUS. -/
theorem CommandWrites.frame {i : Instr} {s u : State} (h : CommandWrites i s u) :
    u = { s with hdr := u.hdr, cursor := u.cursor, ram := u.ram, dataLen := u.dataLen, sink := u.sink, draws := u.draws } := by
  cases i with
  | nop => obtain rfl := h; rfl
  | loadDefault => obtain rfl := h; rfl
  | decodeHdr => obtain ⟨hd, c, rfl⟩ := h; rfl
  | readData => obtain ⟨m, n, c, rfl⟩ := h; rfl
  | encodeHdr => obtain ⟨k, n, c, d, rfl⟩ := h; rfl
  | pack16 | pack32 => obtain ⟨m, c, rfl⟩ := h; rfl

theorem CommandWrites.faults {i : Instr} {s u : State} (h : CommandWrites i s u) : u.faults = s.faults :=
  (congrArg State.faults h.frame :)

theorem CommandWrites.latched {i : Instr} {s u : State} (h : CommandWrites i s u) : u.latched = s.latched :=
  (congrArg State.latched h.frame :)

/-- Settles O42: every command ends in one way from every STATUS. -/
theorem noCommandReadsStatus : Obligations.NoCommandReadsStatus := by
  intro i s
  obtain ⟨u, o, -, ho, he⟩ := exec_ends i s
  cases o with
  | none => exact .inl ⟨u, he⟩
  | some e => exact .inr ⟨u, e, fun h => ho (congrArg some h), he⟩

/-- Settles O38: a command's writes, read off for each command. -/
theorem commandsWriteOnlyWhatTheirRulesName : Obligations.CommandsWriteOnlyWhatTheirRulesName := by
  intro i s
  obtain ⟨u, o, hu, -, he⟩ := exec_ends i s
  refine ⟨_, he s.status, endStatus_busy _ o, endStatus_done _ o, endStatus_lastop _ o, ?_⟩
  cases i with
  | nop => obtain rfl := hu; simp
  | loadDefault => obtain rfl := hu; simp
  | decodeHdr => obtain ⟨h, c, rfl⟩ := hu; simp
  | readData => obtain ⟨m, n, c, rfl⟩ := hu; simp
  | encodeHdr => obtain ⟨k, n, c, d, rfl⟩ := hu; simp
  | pack16 | pack32 => obtain ⟨m, c, rfl⟩ := hu; simp

/-- A packer carries H_FILESIZE through (R40). -/
theorem packBytes_setFileSize (s : State) (bs : List Byte) (v : Word) :
    packBytes { s with hdr := { s.hdr with fileSize := v } } bs =
      { packBytes s bs with hdr := { (packBytes s bs).hdr with fileSize := v } } := by
  obtain ⟨hl, he⟩ | ⟨hl, he⟩ := packBytes_cases s bs <;> rw [he]
  · exact packBytes_of_beyond hl
  · exact packBytes_of_fits hl

/-- Settles O43: no check of a command and nothing it writes elsewhere looks at H_FILESIZE. -/
theorem fileSizeRegisterIsNeverRead : Obligations.FileSizeRegisterIsNeverRead := by
  intro i s t v h
  cases i with
  | nop => rw [execNop_cases h]; exact ⟨v, rfl⟩
  | loadDefault => rw [execLoadDefault_cases h]; exact ⟨_, rfl⟩
  | decodeHdr =>
    obtain ⟨hd, c, hp, rfl⟩ | ⟨e, hp, rfl⟩ := execDecodeHdr_cases h
    · exact ⟨hd.fileSize, exec_decodeHdr_of_ok hp⟩
    · exact ⟨v, exec_decodeHdr_of_error hp⟩
  | readData =>
    obtain ⟨hp, rfl⟩ | ⟨hp, hn, rfl⟩ | ⟨hp, h0, hn, hr, rfl⟩ | ⟨hp, h0, hn, r, hr, rfl⟩ := execReadData_cases h
    · exact ⟨v, exec_readData_of_absent hp⟩
    · exact ⟨v, exec_readData_of_badSize hp hn⟩
    · exact ⟨v, exec_readData_of_short hp h0 hn hr⟩
    · exact ⟨v, exec_readData_of_read hp h0 hn hr⟩
  | encodeHdr =>
    obtain ⟨hl, rfl⟩ | ⟨hl, hu, rfl⟩ | ⟨hl, hu, hp, rfl⟩ | ⟨hl, hu, hp, hc, rfl⟩ | ⟨hl, hu, hp, hc, rfl⟩ :=
      execEncodeHdr_cases h
    · exact ⟨v, exec_encodeHdr_of_overflow hl⟩
    · exact ⟨v, exec_encodeHdr_of_unsupported hl hu⟩
    · exact ⟨v, exec_encodeHdr_of_absent hl hu hp⟩
    · exact ⟨v, exec_encodeHdr_of_short hl hu hp hc⟩
    · exact ⟨v, exec_encodeHdr_of_fits hl hu hp hc⟩
  | pack16 => rw [execPack16_cases h]; exact ⟨v, congrArg Host.Outcome.next (packBytes_setFileSize s (frame16 s) v)⟩
  | pack32 => rw [execPack32_cases h]; exact ⟨v, congrArg Host.Outcome.next (packBytes_setFileSize s (sample32 s) v)⟩

end Sys2Proof.Machine
end

section
/-! What each host operation does to the state, as one relation, and what follows of it and of the commands' shape for every
step: the fault set, STICKY, and the invariant of the machine (R25, R27, R42, R49, R210). -/

namespace Sys2Proof.Machine

/-! ### The host's operations -/

/-- The marks of `f` are all in `g` (R49). -/
def FaultSet.sub (f g : FaultSet) : Prop :=
  (f.hostBadAccess = true → g.hostBadAccess = true) ∧ (f.hostHazard = true → g.hostHazard = true)

theorem FaultSet.sub_refl (f : FaultSet) : FaultSet.sub f f := ⟨id, id⟩

theorem State.record_sub (s : State) (f : Fault) : FaultSet.sub s.faults (s.record f).faults := by
  cases f with
  | hostBadAccess => exact ⟨fun _ => rfl, id⟩
  | hostHazard => exact ⟨id, fun _ => rfl⟩

/-- What a host operation can do to the state. -/
inductive HostEffect (s : State) : HostOp → State → Prop where
  /-- The block is as before: at most a fault is recorded, the host gets an answer and its program changes. -/
  | note (op : HostOp) (f : FaultSet) (r : Response) (d : Nat) (h : List HostOp) (hf : FaultSet.sub s.faults f) :
      HostEffect s op { s with faults := f, response := r, draws := d, host := h }
  /-- A command is issued (R24). -/
  | issue (op : HostOp) (w : Word) (hb : s.status.busy = false) : HostEffect s op (s.issue w)
  /-- Header registers, PK_INDEX or PK_SAMPLE are written (R28, R29, R39). -/
  | registers (op : HostOp) (hdr : Header) (i p : Word) : HostEffect s op { s with hdr := hdr, pkIndex := i, pkSample := p }
  /-- DATA_LEN is written, and the growth zero-filled (R27). -/
  | dataLen (op : HostOp) (v : Word) (hv : v.toNat ≤ s.params.dataCap.val) :
      HostEffect s op { s with ram := Memory.zeroFill s.ram s.dataLen.toNat v.toNat, dataLen := v }
  /-- A byte below DATA_LEN is written (R42). -/
  | dataByte (op : HostOp) (i : Nat) (b : Byte) (hi : i < s.dataLen.toNat) :
      HostEffect s op { s with ram := Memory.write s.ram i b }
  /-- The block is reset (R210). -/
  | reset : HostEffect s .reset (hostReset s)
  /-- A source, a sink or a connection is provided; SRC_LEN stays below 2^32 (R5, R43, R44, R77). -/
  | resources (op : HostOp) (source : Source) (sink : Sink) (shared : Bool)
      (hl : sourceOk s → sourceOk { s with source := source, sink := sink, shared := shared }) :
      HostEffect s op { s with source := source, sink := sink, shared := shared }

theorem HostEffect.refl (s : State) (op : HostOp) : HostEffect s op s :=
  .note op s.faults s.response s.draws s.host (FaultSet.sub_refl _)

theorem HostEffect.record (s : State) (op : HostOp) (f : Fault) : HostEffect s op (s.record f) := by
  have hf := State.record_sub s f
  cases f with
  | hostBadAccess => exact .note op _ s.response s.draws s.host hf
  | hostHazard => exact .note op _ s.response s.draws s.host hf

theorem HostEffect.respond (s : State) (op : HostOp) (r : Response) : HostEffect s op (s.respond r) :=
  .note op s.faults r s.draws s.host (FaultSet.sub_refl _)

theorem writeReg_effect {s : State} (op : HostOp) (r : Reg) (v : Word) (hb : s.status.busy = false) :
    HostEffect s op (writeReg s r v) := by
  cases r with
  | cmd => exact .issue op v hb
  | dataLen =>
    show HostEffect s op (writeDataLen s v)
    unfold writeDataLen
    split
    · rename_i hv; exact .dataLen op v hv
    · exact .refl s op
  | status | cursor | info | config | dataCap | reserved => exact .refl s op
  | _ => exact .registers op _ _ _

theorem hostRegWrite_effect (s : State) (op : HostOp) (width offset : Nat) (v : Word) :
    HostEffect s op (hostRegWrite s width offset v) := by
  unfold hostRegWrite
  split
  · exact .record s op _
  · rename_i r _
    split
    · exact .record s op _
    · rename_i hb; exact writeReg_effect op r v (Bool.eq_false_iff.mpr hb)

theorem hostRegRead_effect (s : State) (op : HostOp) (width offset : Nat) : HostEffect s op (hostRegRead s width offset) := by
  unfold hostRegRead
  split
  · exact .note op _ _ _ s.host (State.record_sub s .hostBadAccess)
  · split
    · exact .note op _ _ _ s.host (FaultSet.sub_refl _)
    · exact .respond s op _

theorem hostDataWrite_effect (s : State) (op : HostOp) (i : Nat) (b : Byte) : HostEffect s op (hostDataWrite s i b) := by
  unfold hostDataWrite
  split
  · exact .record s op _
  · unfold dataPortWrite
    split
    · rename_i hi; exact .dataByte op i b hi
    · exact .refl s op

theorem hostDataRead_effect (s : State) (op : HostOp) (i : Nat) : HostEffect s op (hostDataRead s i) := by
  unfold hostDataRead
  split
  · exact .note op _ _ _ s.host (State.record_sub s .hostHazard)
  · exact .respond s op _

theorem hostPoll_effect (s : State) (op : HostOp) : HostEffect s op (hostPoll s) := by
  unfold hostPoll
  dsimp only
  split
  · exact .note op s.faults _ s.draws _ (FaultSet.sub_refl _)
  · exact .respond s op _

theorem hostStopOnErr_effect (s : State) (op : HostOp) : HostEffect s op (hostStopOnErr s) := by
  unfold hostStopOnErr
  dsimp only
  split
  · exact .note op s.faults _ s.draws _ (FaultSet.sub_refl _)
  · exact .respond s op _

/-- A host operation that answers a next state has one of the effects. -/
theorem runHostOp_effect {op : HostOp} {s t : State} (h : runHostOp op s = .next t) : HostEffect s op t := by
  cases op with
  | regWrite width offset v => cases h; exact hostRegWrite_effect s _ width offset v
  | regRead width offset => cases h; exact hostRegRead_effect s _ width offset
  | dataWrite i b => cases h; exact hostDataWrite_effect s _ i b
  | dataRead i => cases h; exact hostDataRead_effect s _ i
  | poll => cases h; exact hostPoll_effect s _
  | stopOnErr => cases h; exact hostStopOnErr_effect s _
  | reset => cases h; exact .reset
  | presentSource present bytes =>
    obtain ⟨hl, -, rfl⟩ := hostPresentSource_cases h
    exact .resources _ _ s.sink _ fun _ => hl
  | presentSink present cap bytes =>
    obtain ⟨-, rfl⟩ := hostPresentSink_cases h
    exact .resources _ _ _ _ id
  | connect =>
    obtain ⟨hl, -, rfl⟩ := hostConnect_cases h
    exact .resources _ s.source s.sink _ fun _ => hl
  | readSink =>
    obtain ⟨-, rfl⟩ := hostReadSink_cases h
    exact .respond s _ _

/-! ### The fault set and STICKY through every step -/

/-- A step's answer is a command's ending (an illegal word writes what NOP does), an idle step, or a host operation's effect. -/
theorem step_effect {s t : State} (h : step s = .next t) :
    (∃ i u o, CommandWrites i s u ∧ o ≠ some .none ∧ t = { u with status := endStatus s.status o }) ∨ t = s ∨
    ∃ op rest, s.host = op :: rest ∧ HostEffect { s with host := rest, engineDelay := s.engineDelay - 1 } op t := by
  obtain ⟨-, -, ⟨i, -, hs⟩ | ⟨e, -, hs⟩⟩ | ⟨-, -, hs⟩ | ⟨-, op, rest, hh, hs⟩ := step_cases s
  · exact .inl ⟨i, exec_next_ends (hs.symm.trans h)⟩
  · cases hs.symm.trans h
    exact .inl ⟨.nop, s, some .illegalCommand, rfl, by decide, rfl⟩
  · cases hs.symm.trans h
    exact .inr (.inl rfl)
  · exact .inr (.inr ⟨op, rest, hh, runHostOp_effect (hs.symm.trans h)⟩)

theorem HostEffect.faults {s t : State} {op : HostOp} (h : HostEffect s op t) : FaultSet.sub s.faults t.faults := by
  cases h with
  | note _ _ _ _ _ hf => exact hf
  | _ => exact FaultSet.sub_refl _

/-- Settles O47: commands do not write the fault set, and host operations only add to it. -/
theorem modelFaultsAreNeverCleared : Obligations.ModelFaultsAreNeverCleared := by
  intro s t h
  show FaultSet.sub s.faults t.faults
  obtain ⟨i, u, o, hu, -, rfl⟩ | rfl | ⟨op, rest, -, he⟩ := step_effect h
  · show FaultSet.sub s.faults u.faults
    rw [hu.faults]
    exact FaultSet.sub_refl _
  · exact FaultSet.sub_refl _
  · exact he.faults

/-- A host operation keeps STICKY unless it is the reset. -/
theorem HostEffect.sticky {s t : State} {op : HostOp} (h : HostEffect s op t) :
    t.status.sticky = s.status.sticky ∨ op = .reset ∧ t.status = Status.reset := by
  cases h with
  | reset => exact .inr ⟨rfl, rfl⟩
  | _ => exact .inl rfl

/-- Settles O48: a command's ending keeps STICKY or sets it, and of the host operations only the reset clears it. -/
theorem onlyResetClearsSticky : Obligations.OnlyResetClearsSticky := by
  intro s t h hs ht
  obtain ⟨i, u, o, -, -, rfl⟩ | rfl | ⟨op, rest, hh, he⟩ := step_effect h
  · exact absurd (endStatus_sticky o hs) (Bool.not_eq_true _ ▸ ht)
  · exact absurd hs (Bool.not_eq_true _ ▸ ht)
  · obtain hk | ⟨rfl, hr⟩ := he.sticky
    · exact absurd (hk.trans hs) (Bool.not_eq_true _ ▸ ht)
    · exact ⟨congrArg List.head? hh, hr⟩

/-! ### The invariant -/

/-- Settles O55: an empty buffer, STATUS 0 and an empty latch meet it, whatever the resources but for SRC_LEN. -/
theorem invariantHoldsAtReset : Obligations.InvariantHoldsAtReset := by
  have hm : ∀ n, Memory.wf [] ∧ Memory.below [] n := fun n => ⟨⟨List.Pairwise.nil, nofun⟩, nofun⟩
  have hst : statusOk State.reset := by unfold statusOk; decide
  exact ⟨⟨⟨Nat.zero_le _, hm _⟩, hst, by unfold sourceOk; decide⟩,
    fun p source sink program hl => ⟨⟨Nat.zero_le _, hm _⟩, hst, hl⟩⟩

/-- Every ending of a command, from whatever STATUS, is a consistent STATUS (R45, R181). -/
theorem statusOk_end {s u : State} {o : Option ErrCode} (hs : statusOk s) (ho : o ≠ some .none) (hl : u.latched = s.latched) :
    statusOk { u with status := endStatus s.status o } := by
  obtain ⟨-, herr, hcode, hlast⟩ := hs
  have hl : s.status.lastop = opField u.latched := hl ▸ hlast
  cases o with
  | none => exact ⟨nofun, fun he => ⟨rfl, (herr he).2⟩, hcode, hl⟩
  | some e =>
    refine ⟨nofun, fun _ => ⟨rfl, rfl⟩, ⟨nofun, fun he => ?_⟩, hl⟩
    exact absurd (congrArg some he) ho

theorem exec_statusOk {i : Instr} {s t : State} (hs : statusOk s) (h : exec i s = .next t) : statusOk t := by
  obtain ⟨u, o, hu, ho, rfl⟩ := exec_next_ends h
  exact statusOk_end hs ho hu.latched

theorem packBytes_dataOk {s : State} {bs : List Byte} (hd : dataOk s) (hbs : bs.length = 4) : dataOk (packBytes s bs) := by
  obtain ⟨-, he⟩ | ⟨hi, he⟩ := packBytes_cases s bs <;> rw [he]
  · exact hd
  · obtain ⟨hlen, hwf, hb⟩ := hd
    have hin : s.pkIndex.toNat + bs.length ≤ s.params.dataCap.val := by omega
    exact ⟨hlen, Memory.writeBytes_wf _ _ _ hwf, Memory.writeBytes_below _ _ _ _ hb hin⟩

/-- READ_DATA's payload and the packers' bytes lie below DATA_CAP; no other command writes the RAM, and DEFAULT empties the buffer. -/
theorem exec_dataOk {i : Instr} {s t : State} (hd : dataOk s) (h : exec i s = .next t) : dataOk t := by
  cases i with
  | nop => rw [execNop_cases h]; exact hd
  | loadDefault => rw [execLoadDefault_cases h]; exact ⟨Nat.zero_le _, hd.2⟩
  | decodeHdr => obtain ⟨u, o, ⟨hdr, c, rfl⟩, -, rfl⟩ := exec_next_ends h; exact hd
  | encodeHdr => obtain ⟨u, o, ⟨k, n, c, d, rfl⟩, -, rfl⟩ := exec_next_ends h; exact hd
  | readData =>
    obtain ⟨-, rfl⟩ | ⟨-, -, rfl⟩ | ⟨-, -, -, -, rfl⟩ | ⟨-, h0, hn, r, hr, rfl⟩ := execReadData_cases h
    · exact hd
    · exact hd
    · exact hd
    · obtain ⟨-, hwf, hb⟩ := hd
      have hn : s.hdr.dataSize.toInt.toNat ≤ s.params.dataCap.val := by omega
      have hin : 0 + r.length ≤ s.params.dataCap.val := by rwa [Nat.zero_add, Source.read_length hr]
      have hlen : (BitVec.ofNat 32 s.hdr.dataSize.toInt.toNat).toNat ≤ s.hdr.dataSize.toInt.toNat := by
        rw [BitVec.toNat_ofNat]
        exact Nat.mod_le _ _
      exact ⟨Nat.le_trans hlen hn, Memory.writeBytes_wf _ _ _ hwf, Memory.writeBytes_below _ _ _ _ hb hin⟩
  | pack16 => rw [execPack16_cases h]; exact packBytes_dataOk hd (frame16_length s)
  | pack32 => rw [execPack32_cases h]; exact packBytes_dataOk hd (sample32_length s)

/-- A sink that grows no further than its capacity keeps SRC_LEN below 2^32, connected to the source port or not (R5, R77). -/
theorem sourceOk_of_sink {s t : State} (hs : sourceOk s) (hsrc : t.source = s.source) (hsh : t.shared = s.shared)
    (hk : t.sink.bytes.length ≤ max s.sink.bytes.length s.sink.cap.val) : sourceOk t := by
  have hc := s.sink.cap.isLt
  unfold sourceOk at hs ⊢
  cases h : s.shared with
  | false =>
    rw [State.src_apart s h] at hs
    rwa [State.src_apart t (hsh.trans h), hsrc]
  | true =>
    rw [State.src_shared s h] at hs
    rw [State.src_shared t (hsh.trans h)]
    dsimp only at hs ⊢
    omega

theorem encodeCommit_sourceOk {s : State} (hs : sourceOk s) (hc : 44 + s.dataLen.toNat ≤ s.sink.cap.val) :
    sourceOk (encodeCommit s) := by
  have hk : (emitTo s.sink s.hdr (Memory.readBytes s.ram 0 s.dataLen.toNat)).bytes.length ≤
      max s.sink.bytes.length s.sink.cap.val := by
    simp [emitTo_bytes]
    omega
  exact sourceOk_of_sink hs rfl rfl hk

theorem encodeShort_sourceOk {s : State} (hs : sourceOk s) : sourceOk (encodeShort s) := by
  have hk : (s.sink.scramble s.sink.cap.val s.draws).bytes.length ≤ max s.sink.bytes.length s.sink.cap.val :=
    Sink.scramble_length .. ▸ (Sink.freeLen_bounds ..).2
  exact sourceOk_of_sink hs rfl rfl hk

/-- ENCODE alone writes a resource, and within its capacity. -/
theorem exec_sourceOk {i : Instr} {s t : State} (hs : sourceOk s) (h : exec i s = .next t) : sourceOk t := by
  cases i with
  | nop => rw [execNop_cases h]; exact hs
  | loadDefault => rw [execLoadDefault_cases h]; exact hs
  | decodeHdr => obtain ⟨u, o, ⟨hdr, c, rfl⟩, -, rfl⟩ := exec_next_ends h; exact hs
  | readData => obtain ⟨u, o, ⟨m, n, c, rfl⟩, -, rfl⟩ := exec_next_ends h; exact hs
  | encodeHdr =>
    obtain ⟨-, rfl⟩ | ⟨-, -, rfl⟩ | ⟨-, -, -, rfl⟩ | ⟨-, -, -, -, rfl⟩ | ⟨-, -, -, hc, rfl⟩ := execEncodeHdr_cases h
    · exact hs
    · exact hs
    · exact hs
    · exact encodeShort_sourceOk hs
    · exact encodeCommit_sourceOk hs hc
  | pack16 | pack32 => obtain ⟨u, o, ⟨m, c, rfl⟩, -, rfl⟩ := exec_next_ends h; exact hs

theorem exec_machineInv {i : Instr} {s t : State} (hi : MachineInv s) (h : exec i s = .next t) : MachineInv t := by
  obtain ⟨hd, hs, hsrc⟩ := hi
  exact ⟨exec_dataOk hd h, exec_statusOk hs h, exec_sourceOk hsrc h⟩

/-- Reset's unspecified sink stays within the capacity, and its unspecified RAM below DATA_CAP (R210, R211). -/
theorem hostReset_machineInv {s : State} (hsrc : sourceOk s) : MachineInv (hostReset s) := by
  have hst : statusOk (hostReset s) := ⟨nofun, nofun, ⟨fun _ => rfl, fun _ => rfl⟩, rfl⟩
  refine ⟨⟨Nat.zero_le _, Memory.unspecified_wf _ _, Memory.unspecified_below _ _⟩, hst, ?_⟩
  have hk : (sinkAfterReset s).bytes.length ≤ max s.sink.bytes.length s.sink.cap.val := by
    unfold sinkAfterReset
    split
    · have hb := (Sink.freeLen_bounds s.sink (min (44 + s.dataLen.toNat) s.sink.cap.val) s.draws).2
      rw [Sink.scramble_length]
      omega
    · exact Nat.le_max_left _ _
  exact sourceOk_of_sink hsrc rfl rfl hk

theorem HostEffect.machineInv {s t : State} {op : HostOp} (h : HostEffect s op t) (hi : MachineInv s) : MachineInv t := by
  obtain ⟨hd, hs, hsrc⟩ := hi
  obtain ⟨hlen, hwf, hb⟩ := hd
  cases h with
  | note => exact ⟨⟨hlen, hwf, hb⟩, hs, hsrc⟩
  | issue => exact ⟨⟨hlen, hwf, hb⟩, ⟨fun _ => rfl, nofun, ⟨fun _ => rfl, fun _ => rfl⟩, rfl⟩, hsrc⟩
  | registers => exact ⟨⟨hlen, hwf, hb⟩, hs, hsrc⟩
  | dataLen _ v hv => exact ⟨⟨hv, Memory.zeroFill_wf _ _ _ hwf, Memory.zeroFill_below _ _ _ _ hb⟩, hs, hsrc⟩
  | dataByte _ i b hi =>
    exact ⟨⟨hlen, Memory.write_wf _ _ _ hwf, Memory.write_below _ _ _ _ hb (Nat.lt_of_lt_of_le hi hlen)⟩, hs, hsrc⟩
  | reset => exact hostReset_machineInv hsrc
  | resources _ source sink shared hl => exact ⟨⟨hlen, hwf, hb⟩, hs, hl hsrc⟩

/-- Settles O56: a command, an illegal word's error, an idle step and every effect of a host operation keep the invariant. -/
theorem everyStepKeepsTheInvariant : Obligations.EveryStepKeepsTheInvariant := by
  intro s t hi h
  obtain ⟨-, -, ⟨i, -, hs⟩ | ⟨e, -, hs⟩⟩ | ⟨-, -, hs⟩ | ⟨-, op, rest, -, hs⟩ := step_cases s
  · exact exec_machineInv hi (hs.symm.trans h)
  · cases hs.symm.trans h
    obtain ⟨hd, hst, hsrc⟩ := hi
    exact ⟨hd, statusOk_end (o := some .illegalCommand) hst (by decide) rfl, hsrc⟩
  · cases hs.symm.trans h
    exact hi
  · have he := runHostOp_effect (hs.symm.trans h)
    exact he.machineInv hi

end Sys2Proof.Machine
end

section
/-! The words the host reads: tags as registers (R36), the fields of STATUS and INFO (R25, R30), and the offsets of the map (R22). -/

namespace Sys2Proof.Machine

/-! ### Tags (R36) -/

@[simp] theorem tagOfReg_tagToReg (t : Tag) : tagOfReg (tagToReg t) = t := by
  obtain ⟨a, b, c, d⟩ := t
  obtain ⟨ha, hb, hc, hd⟩ := extract_bytes a b c d
  exact Tag.mk.injEq .. ▸ ⟨ha, hb, hc, hd⟩

@[simp] theorem tagToReg_tagOfReg (w : Word) : tagToReg (tagOfReg w) = w := join_bytes w

/-- A tag register shows the word of a tag exactly when it holds the tag. -/
theorem tagToReg_eq_iff {t u : Tag} {w : Word} (hw : tagToReg u = w) : tagToReg t = w ↔ t = u := by
  constructor
  · intro h
    rw [← tagOfReg_tagToReg t, h, ← hw, tagOfReg_tagToReg]
  · rintro rfl
    exact hw

/-- Settles O11: the register view joins the four bytes, and its inverse takes the fields. -/
theorem tagRegisterViewIsFileOrder : Obligations.TagRegisterViewIsFileOrder := by
  refine ⟨fun t => ?_, tagToReg_tagOfReg, fun s => ⟨rfl, rfl, rfl, rfl⟩, by decide⟩
  obtain ⟨h0, h1, h2, h3⟩ := extract_bytes t.b0 t.b1 t.b2 t.b3
  exact ⟨h0, h1, h2, h3, tagOfReg_tagToReg t⟩

/-! ### STATUS (R25) -/

theorem statusWord_fields (t : Status) :
    (statusWord t).extractLsb' 0 1 = BitVec.ofBool t.busy ∧
    (statusWord t).extractLsb' 1 1 = BitVec.ofBool t.done ∧
    (statusWord t).extractLsb' 2 1 = BitVec.ofBool t.err ∧
    (statusWord t).extractLsb' 3 1 = 0#1 ∧
    (statusWord t).extractLsb' 4 4 = errNumber t.errcode ∧
    (statusWord t).extractLsb' 8 1 = BitVec.ofBool t.sticky ∧
    (statusWord t).extractLsb' 9 7 = 0#7 ∧
    (statusWord t).extractLsb' 16 8 = t.lastop ∧
    (statusWord t).extractLsb' 24 8 = 0#8 := by
  unfold statusWord
  refine ⟨?_, ?_, ?_, ?_, ?_, ?_, ?_, ?_, ?_⟩ <;>
    simp (disch := omega) only [extract_join_low, extract_join_high, Nat.reduceSub, extract_all]

/-- Settles O14: the word joins its fields, so each is read off at its place. -/
theorem statusRegisterFields : Obligations.StatusRegisterFields :=
  ⟨fun s => statusWord_fields s.status, by decide⟩

/-! ### INFO (R30) -/

theorem infoWord_fields (h : Header) :
    (infoWord h).extractLsb' 0 1 = orderBit (resolveOrder h.ctag) ∧
    (infoWord h).extractLsb' 1 3 = 0#3 ∧
    (infoWord h).extractLsb' 4 4 = BitVec.ofNat 4 (sampleWidth h.bps) ∧
    (infoWord h).extractLsb' 8 1 = BitVec.ofBool (unsupported h.audioFmt h.bps) ∧
    (infoWord h).extractLsb' 9 1 = BitVec.ofBool (tagErr h) ∧
    (infoWord h).extractLsb' 10 1 = BitVec.ofBool (extFmt h) ∧
    (infoWord h).extractLsb' 11 21 = 0#21 := by
  unfold infoWord
  refine ⟨?_, ?_, ?_, ?_, ?_, ?_, ?_⟩ <;>
    simp (disch := omega) only [extract_join_low, extract_join_high, Nat.reduceSub, extract_all]

theorem orderBit_resolveOrder (t : Tag) : orderBit (resolveOrder t) = if t.b3 = 0x46#8 then 0#1 else 1#1 := by
  unfold resolveOrder
  split <;> rfl

theorem ofNat_sampleWidth (bps : Half) :
    BitVec.ofNat 4 (sampleWidth bps) = if bps = 8#16 then 1#4 else if bps = 16#16 then 2#4 else 4#4 := by
  have h8 : bps.toInt = 8 ↔ bps = 8#16 := half_toInt bps 8 (by omega)
  have h16 : bps.toInt = 16 ↔ bps = 16#16 := half_toInt bps 16 (by omega)
  simp only [sampleWidth, h8, h16]
  split
  · rfl
  · split <;> rfl

/-- A layout is supported for PCM at 8, 16 or 32 bits (R112). -/
theorem unsupported_eq_false_iff (af bps : Half) :
    unsupported af bps = false ↔ af = 1#16 ∧ (bps = 8#16 ∨ bps = 16#16 ∨ bps = 32#16) := by
  have h1 : af.toInt = 1 ↔ af = 1#16 := half_toInt af 1 (by omega)
  have h8 : bps.toInt = 8 ↔ bps = 8#16 := half_toInt bps 8 (by omega)
  have h16 : bps.toInt = 16 ↔ bps = 16#16 := half_toInt bps 16 (by omega)
  have h32 : bps.toInt = 32 ↔ bps = 32#16 := half_toInt bps 32 (by omega)
  simp only [unsupported, Bool.or_eq_false_iff, bne_eq_false_iff_eq, Bool.not_eq_false', Bool.or_eq_true, beq_iff_eq, or_assoc,
    h1, h8, h16, h32]

/-- The four tags are as required, said of the tag registers (R111, R36). -/
theorem tagErr_eq_false_iff (s : State) :
    tagErr s.hdr = false ↔
      (readReg s .hCtag = 0x46464952#32 ∨ readReg s .hCtag = 0x58464952#32) ∧ readReg s .hFmtTag = 0x45564157#32 ∧
        readReg s .hFmtMark = 0x20746D66#32 ∧ readReg s .hDataMark = 0x61746164#32 := by
  have hriff : readReg s .hCtag = 0x46464952#32 ↔ s.hdr.ctag = tagRIFF := tagToReg_eq_iff (by decide)
  have hrifx : readReg s .hCtag = 0x58464952#32 ↔ s.hdr.ctag = tagRIFX := tagToReg_eq_iff (by decide)
  have hwave : readReg s .hFmtTag = 0x45564157#32 ↔ s.hdr.fmtTag = tagWAVE := tagToReg_eq_iff (by decide)
  have hfmt : readReg s .hFmtMark = 0x20746D66#32 ↔ s.hdr.fmtMark = tagFmt := tagToReg_eq_iff (by decide)
  have hdata : readReg s .hDataMark = 0x61746164#32 ↔ s.hdr.dataMark = tagData := tagToReg_eq_iff (by decide)
  simp only [hriff, hrifx, hwave, hfmt, hdata, tagErr, Bool.not_eq_false', Bool.and_eq_true, Bool.or_eq_true, beq_iff_eq, and_assoc]

/-- A flag as a bit, by the condition under which it is clear. -/
theorem ofBool_eq_ite {b : Bool} {p : Prop} [Decidable p] (h : b = false ↔ p) : BitVec.ofBool b = if p then 0#1 else 1#1 := by
  cases b with
  | false => rw [if_pos (h.mp rfl)]; rfl
  | true => rw [if_neg fun hp => Bool.noConfusion (h.mpr hp)]; rfl

theorem ofBool_extFmt (h : Header) : BitVec.ofBool (extFmt h) = if 16 < h.fmtBlk.toInt then 1#1 else 0#1 := by
  unfold extFmt
  split <;> simp [*]

/-- Settles O13: the word joins its fields, and each field is its condition on the header. -/
theorem infoRegisterFields : Obligations.InfoRegisterFields := by
  refine ⟨fun s => ?_, by decide⟩
  obtain ⟨hord, hrsv, hsw, hun, htag, hext, htop⟩ := infoWord_fields s.hdr
  exact ⟨hord.trans (orderBit_resolveOrder _), hrsv, hsw.trans (ofNat_sampleWidth _),
    hun.trans (ofBool_eq_ite (unsupported_eq_false_iff _ _)), htag.trans (ofBool_eq_ite (tagErr_eq_false_iff s)),
    hext.trans (ofBool_extFmt _), htop, fun v => rfl⟩

/-! ### The map (R22) -/

theorem regOfWord_reserved {n : Nat} (h : 22 ≤ n) : regOfWord n = .reserved := by
  obtain ⟨k, rfl⟩ := Nat.exists_eq_add_of_le' h
  rfl

theorem regAt_reserved {offset : Nat} (hlo : 0x58 ≤ offset) (hhi : offset ≤ 0xFC) (ha : offset % 4 = 0) :
    regAt 32 offset = some .reserved := by
  rw [regAt, if_pos ⟨rfl, ha, hhi⟩, regOfWord_reserved (by omega)]

/-- Settles O15: the table by evaluation, the reserved offsets by their word number. -/
theorem registerMapOffsets : Obligations.RegisterMapOffsets :=
  ⟨rfl, rfl, rfl, rfl, rfl, rfl, rfl, rfl, rfl, rfl, rfl, rfl, rfl, rfl, rfl, rfl, rfl, rfl, rfl, rfl, rfl, rfl,
    fun _ hlo hhi ha => regAt_reserved hlo hhi ha⟩

end Sys2Proof.Machine
end

section
/-! The host's ports while the block is idle and while it is busy: register accesses (R22 to R39, R216), the data port (R42), the resources
(R43, R44, R77, R78). -/

namespace Sys2Proof.Machine

/-! ### A register access that is not refused -/

/-- While idle a write at a register's offset is the register's write. -/
theorem runHostOp_regWrite_idle {s : State} {width offset : Nat} {r : Reg} (v : Word) (hr : regAt width offset = some r)
    (hb : s.status.busy = false) : runHostOp (.regWrite width offset v) s = .next (writeReg s r v) := by
  simp [runHostOp, hostRegWrite, hr, hb]

/-- While idle a read at a register's offset gives the register. -/
theorem runHostOp_regRead_idle {s : State} {width offset : Nat} {r : Reg} (hr : regAt width offset = some r)
    (hb : s.status.busy = false) : runHostOp (.regRead width offset) s = .next (s.respond (.word (readReg s r))) := by
  simp [runHostOp, hostRegRead, hr, hb]

/-- STATUS reads as it stands, busy or not (R216). -/
theorem runHostOp_regRead_status {s : State} {width offset : Nat} (hr : regAt width offset = some .status) :
    runHostOp (.regRead width offset) s = .next (s.respond (.word (readReg s .status))) := by
  simp [runHostOp, hostRegRead, hr]

/-- While busy every register but STATUS reads as a draw (R216). -/
theorem runHostOp_regRead_busy {s : State} {width offset : Nat} {r : Reg} (hr : regAt width offset = some r)
    (hb : s.status.busy = true) (hne : r ≠ .status) : runHostOp (.regRead width offset) s = .next s.respondFreeWord := by
  simp [runHostOp, hostRegRead, hr, hb, hne]

/-- Settles O24: the three cases of a register read, with BUSY at bit 0 of STATUS. -/
theorem busyRegisterReads : Obligations.BusyRegisterReads := by
  intro s offset r hr
  refine ⟨?_, fun hb hne => runHostOp_regRead_busy hr hb hne, fun hb => runHostOp_regRead_idle hr hb⟩
  rintro hb rfl
  obtain ⟨hbit, -⟩ := statusWord_fields s.status
  exact ⟨runHostOp_regRead_status hr, hbit.trans (hb ▸ rfl)⟩

/-! ### DATA_LEN and the read-only registers -/

/-- Settles O18: the write is the zero fill, whose reads the RAM's laws give. -/
theorem dataLenWriteZeroFills : Obligations.DataLenWriteZeroFills := by
  intro s v hb
  have hw : runHostOp (.regWrite 32 0x0C v) s = .next (writeDataLen s v) :=
    runHostOp_regWrite_idle (r := .dataLen) v rfl hb
  refine ⟨fun hv => ?_, fun hv => ?_, runHostOp_regRead_idle (r := .dataLen) rfl hb⟩
  · exact ⟨_, hw.trans (congrArg _ (if_pos hv)), Memory.read_zeroFill _ _ _⟩
  · exact hw.trans (congrArg _ (if_neg (Nat.not_le.mpr hv)))

theorem configWord_eq (p : Params) : configWord p = if p.strictLayout then 1#32 else 0#32 := by
  unfold configWord
  cases p.strictLayout <;> rfl

/-- Settles O19: at each of the offsets stands a register whose write is the identity. -/
theorem readOnlyRegistersIgnoreWrites : Obligations.ReadOnlyRegistersIgnoreWrites := by
  intro s hb
  refine ⟨?_, fun offset hlo hhi ha => runHostOp_regRead_idle (regAt_reserved hlo hhi ha) hb,
    runHostOp_regRead_idle (r := .cursor) rfl hb, ?_, runHostOp_regRead_idle (r := .dataCap) rfl hb⟩
  · rintro offset v (rfl | rfl | rfl | rfl | rfl | ⟨hlo, hhi, ha⟩)
    · exact runHostOp_regWrite_idle (r := .status) v rfl hb
    · exact runHostOp_regWrite_idle (r := .cursor) v rfl hb
    · exact runHostOp_regWrite_idle (r := .info) v rfl hb
    · exact runHostOp_regWrite_idle (r := .config) v rfl hb
    · exact runHostOp_regWrite_idle (r := .dataCap) v rfl hb
    · exact runHostOp_regWrite_idle v (regAt_reserved hlo hhi ha) hb
  · rw [← configWord_eq]
    exact runHostOp_regRead_idle (r := .config) rfl hb

/-! ### Registers that are plain storage -/

/-- The registers that hold a whole word: PK_INDEX, PK_SAMPLE, the 32-bit header registers and the tags (R28, R29, R36, R38). -/
def Reg.isWord : Reg → Bool
  | .pkIndex | .pkSample | .hCtag | .hFileSize | .hFmtTag | .hFmtMark | .hFmtBlk | .hSRate | .hByteRate | .hDataMark | .hDataSize => true
  | _ => false

/-- The 16-bit header registers (R37). -/
def Reg.isHalf : Reg → Bool
  | .hAudioFmt | .hChannels | .hBlkAlign | .hBps => true
  | _ => false

/-- The registers that are plain storage (R28, R29, R39). -/
def Reg.isPlain (r : Reg) : Bool := r.isWord || r.isHalf

theorem readHalf_lowHalf (v : Word) : readHalf (lowHalf v) = BitVec.ofNat 32 (v.toNat % 65536) := by
  apply BitVec.eq_of_toNat_eq
  simp [readHalf, lowHalf]

theorem readReg_writeReg_word (s : State) {r : Reg} (v : Word) (hr : r.isWord = true) : readReg (writeReg s r v) r = v := by
  cases r with
  | hCtag | hFmtTag | hFmtMark | hDataMark => exact tagToReg_tagOfReg v
  | pkIndex | pkSample | hFileSize | hFmtBlk | hSRate | hByteRate | hDataSize => rfl
  | _ => cases hr

theorem readReg_writeReg_half (s : State) {r : Reg} (v : Word) (hr : r.isHalf = true) :
    readReg (writeReg s r v) r = BitVec.ofNat 32 (v.toNat % 65536) := by
  cases r with
  | hAudioFmt | hChannels | hBlkAlign | hBps => exact readHalf_lowHalf v
  | _ => cases hr

/-- A plain write stays within the header registers, PK_INDEX and PK_SAMPLE. -/
theorem writeReg_plain (s : State) {r : Reg} (v : Word) (hr : r.isPlain = true) :
    writeReg s r v = { s with
      hdr := (writeReg s r v).hdr, pkIndex := (writeReg s r v).pkIndex, pkSample := (writeReg s r v).pkSample } := by
  cases r with
  | cmd | status | cursor | dataLen | info | config | dataCap | reserved => cases hr
  | _ => rfl

theorem writeReg_plain_busy {s : State} {r : Reg} (v : Word) (hr : r.isPlain = true) (hb : s.status.busy = false) :
    (writeReg s r v).status.busy = false := by
  rw [writeReg_plain s v hr]
  exact hb

/-- A plain write leaves every other register but INFO as it reads. -/
theorem readReg_writeReg_other (s : State) {r q : Reg} (v : Word) (hr : r.isPlain = true) (hq : q ≠ r) (hi : q ≠ .info) :
    readReg (writeReg s r v) q = readReg s q := by
  cases r with
  | cmd | status | cursor | dataLen | info | config | dataCap | reserved => cases hr
  | _ => cases q <;> simp [readReg, writeReg] at hq hi ⊢

/-- A plain register written and read again gives what the register then reads as. -/
theorem regWrite_then_regRead {s : State} {offset : Nat} {r : Reg} {v x : Word} (hr : regAt 32 offset = some r)
    (hp : r.isPlain = true) (hb : s.status.busy = false) (hx : readReg (writeReg s r v) r = x) :
    ∃ t, runHostOp (.regWrite 32 offset v) s = .next t ∧
      runHostOp (.regRead 32 offset) t = .next { t with response := .word x } := by
  subst hx
  exact ⟨_, runHostOp_regWrite_idle v hr hb, runHostOp_regRead_idle hr (writeReg_plain_busy v hp hb)⟩

/-- Settles O20: at each offset stands a plain register, and what its write stores its read gives back. -/
theorem writtenRegisterReadsBack : Obligations.WrittenRegisterReadsBack := by
  intro s offset v hb
  have hword : ∀ o ∈ [0x10, 0x14, 0x20, 0x24, 0x28, 0x2C, 0x30, 0x3C, 0x40, 0x4C, 0x50], ∃ r ∈ regAt 32 o, r.isWord = true := by
    decide
  have hhalf : ∀ o ∈ [0x34, 0x38, 0x44, 0x48], ∃ r ∈ regAt 32 o, r.isHalf = true := by decide
  constructor
  · intro ho
    obtain ⟨r, hr, hw⟩ := hword offset ho
    exact regWrite_then_regRead hr (by simp [Reg.isPlain, hw]) hb (readReg_writeReg_word s v hw)
  · intro ho
    obtain ⟨r, hr, hh⟩ := hhalf offset ho
    exact regWrite_then_regRead hr (by simp [Reg.isPlain, hh]) hb (readReg_writeReg_half s v hh)

/-- Settles O21: at each offset stands a plain register. -/
theorem registerWriteFrame : Obligations.RegisterWriteFrame := by
  intro s offset other v r q hb ho hr hq hne hi
  have hplain : ∀ o ∈ [0x10, 0x14, 0x20, 0x24, 0x28, 0x2C, 0x30, 0x34, 0x38, 0x3C, 0x40, 0x44, 0x48, 0x4C, 0x50],
      ∀ r ∈ regAt 32 o, r.isPlain = true := by
    decide
  have hp := hplain offset ho r hr
  exact ⟨_, runHostOp_regWrite_idle v hr hb, readReg_writeReg_other s v hp hne hi, writeReg_plain s v hp⟩

/-! ### The data port (R42) -/

theorem runHostOp_dataRead_idle {s : State} (i : Nat) (hb : s.status.busy = false) :
    runHostOp (.dataRead i) s = .next (s.respond (.byte (dataPortRead s i))) := by
  simp [runHostOp, hostDataRead, hb]

theorem runHostOp_dataWrite_idle {s : State} (i : Nat) (b : Byte) (hb : s.status.busy = false) :
    runHostOp (.dataWrite i b) s = .next (dataPortWrite s i b) := by
  simp [runHostOp, hostDataWrite, hb]

/-- Settles O22: below DATA_LEN the port is a RAM write, beyond it nothing. -/
theorem dataPortStaysBelowDataLen : Obligations.DataPortStaysBelowDataLen := by
  intro s i b hb hwf
  refine ⟨runHostOp_dataRead_idle i hb, ?_⟩
  by_cases hi : i < s.dataLen.toNat
  · refine ⟨_, (runHostOp_dataWrite_idle i b hb).trans (congrArg _ (if_pos hi)), fun a => ?_⟩
    by_cases ha : a = i
    · subst ha
      rw [if_pos ⟨rfl, hi⟩, Memory.read_write_same _ _ _ hwf]
    · rw [if_neg fun h => ha h.1, Memory.read_write_other _ _ _ _ ha]
  · exact ⟨s.ram, (runHostOp_dataWrite_idle i b hb).trans (congrArg _ (if_neg hi)), fun a => (if_neg fun h => hi h.2).symm⟩

/-! ### The resources (R43, R44, R77, R78, R215) -/

theorem refuseWhileBusy_idle {s : State} (t : State) (hb : s.status.busy = false) : refuseWhileBusy s t = .next t :=
  refuseWhileBusy_eq_next.mpr ⟨hb, rfl⟩

theorem refuseWhileBusy_busy {s : State} (t : State) (hb : s.status.busy = true) :
    refuseWhileBusy s t = .refused .resourceWhileBusy :=
  if_pos hb

/-- A source short enough is provided where the block is idle. -/
theorem hostPresentSource_of_length (s : State) (present : Bool) {bytes : List Byte} (hl : bytes.length < 4294967296) :
    hostPresentSource s present bytes = refuseWhileBusy s { s with source := ⟨present, bytes⟩, shared := false } :=
  if_neg (Nat.not_le.mpr hl)

/-- A sink short enough is connected where the block is idle. -/
theorem hostConnect_of_length (s : State) (hl : s.sink.bytes.length < 4294967296) :
    hostConnect s = refuseWhileBusy s { s with shared := true } :=
  if_neg (Nat.not_le.mpr hl)

/-- Settles O26: the four operations ask for an idle block, and there do what their rules say. -/
theorem resourcesChangeBetweenCommandsOnly : Obligations.ResourcesChangeBetweenCommandsOnly := by
  intro s present cap bytes hsrc hsink
  constructor
  · intro hb
    exact ⟨(hostPresentSource_of_length s present hsrc).trans (refuseWhileBusy_idle _ hb),
      ⟨_, refuseWhileBusy_idle _ hb, rfl, rfl, rfl⟩,
      ⟨_, (hostConnect_of_length s hsink).trans (refuseWhileBusy_idle _ hb), rfl, rfl⟩,
      refuseWhileBusy_idle _ hb⟩
  · intro hb
    exact ⟨(hostPresentSource_of_length s present hsrc).trans (refuseWhileBusy_busy _ hb), refuseWhileBusy_busy _ hb,
      (hostConnect_of_length s hsink).trans (refuseWhileBusy_busy _ hb), refuseWhileBusy_busy _ hb⟩

end Sys2Proof.Machine
end

section
/-! Whose step it is (R20, R45): the engine's on the latched command, the host's next operation, or an idle one. -/

namespace Sys2Proof.Machine

/-- The engine moves while BUSY = 1, once its wait is over or the host has nothing left (R221). -/
theorem engineMoves_eq_true_iff (s : State) :
    engineMoves s = true ↔ s.status.busy = true ∧ (s.host = [] ∨ s.engineDelay = 0) := by
  simp [engineMoves]

theorem step_of_ok {s : State} {i : Instr} (hm : engineMoves s = true) (h : decodeWord s.latched = .ok i) : step s = exec i s := by
  simp [step, hm, engineTurn, fetchWord, h]

theorem step_of_error {s : State} {e : DecodeError} (hm : engineMoves s = true) (h : decodeWord s.latched = .error e) :
    step s = .next (s.raise .illegalCommand) := by
  simp [step, hm, engineTurn, fetchWord, h, execIllegal]

theorem step_of_idle {s : State} (hm : engineMoves s = false) (hh : s.host = []) : step s = .next s := by
  simp [step, hm, hostTurn, hh]

theorem step_of_host {s : State} {op : HostOp} {rest : List HostOp} (hm : engineMoves s = false) (hh : s.host = op :: rest) :
    step s = runHostOp op { s with host := rest, engineDelay := s.engineDelay - 1 } := by
  simp [step, hm, hostTurn, hh]

/-- Settles O1: the engine's turn, by what the latch decodes to. -/
theorem stepRunsTheLatchedCommand : Obligations.StepRunsTheLatchedCommand := by
  intro s hb hdue
  have hm : engineMoves s = true := (engineMoves_eq_true_iff s).mpr ⟨hb, hdue⟩
  exact ⟨fun i hi _ => step_of_ok hm hi, fun e he => step_of_error hm he⟩

/-- Settles O2: the engine does not move, so the host does. -/
theorem stepRunsTheHostsOperation : Obligations.StepRunsTheHostsOperation := by
  intro s op rest hh hidle
  have hm : ¬ engineMoves s = true := by
    rw [engineMoves_eq_true_iff, hh]
    rintro ⟨hb, hnil | hd⟩
    · exact List.cons_ne_nil op rest hnil
    · exact hidle.elim (fun h => Bool.noConfusion (h.symm.trans hb)) fun h => h hd
  exact step_of_host (Bool.eq_false_iff.mpr hm) hh

/-- The encoded word of a command decodes to it (R87). -/
theorem decodeWord_encode (i : Instr) : decodeWord (encode i) = .ok i := by
  cases i <;> decide

/-- A command's word, placed in the latch, shows its opcode in LASTOP (R24, R25). -/
theorem withFetchWord_encode (s : State) (i : Instr) :
    s.withFetchWord 32 (encode i).toNat = { s with
      latched := encode i
      status := { s.status with busy := true, done := false, err := false, errcode := .none, lastop := opcodeOf i }
      engineDelay := 0 } := by
  cases i <;> rfl

/-- Settles O3: the placed word is latched with the engine's step due, and decodes to the command. -/
theorem placedWordRunsNext : Obligations.PlacedWordRunsNext := by
  intro s i
  rw [withFetchWord_encode]
  exact step_of_ok ((engineMoves_eq_true_iff _).mpr ⟨rfl, .inr rfl⟩) (decodeWord_encode i)

end Sys2Proof.Machine
end

section
/-! RAM bytes at or above DATA_LEN are unobservable (R42): two RAMs that agree below DATA_LEN are carried through every step,
and agree below the new DATA_LEN again. -/

namespace Sys2Proof.Machine

/-! ### RAMs that agree below a bound -/

/-- `m` and `m'` hold the same bytes below `n`. -/
def Memory.AgreeBelow (n : Nat) (m m' : Memory) : Prop := ∀ a, a < n → Memory.read m' a = Memory.read m a

theorem Memory.AgreeBelow.readBytes {n : Nat} {m m' : Memory} (h : Memory.AgreeBelow n m m') :
    Memory.readBytes m' 0 n = Memory.readBytes m 0 n :=
  List.map_congr_left fun i hi => h (0 + i) (by simpa using hi)

theorem Memory.AgreeBelow.writeBytes {n : Nat} {m m' : Memory} (h : Memory.AgreeBelow n m m') (hm : Memory.wf m)
    (hm' : Memory.wf m') (a : Nat) (bs : List Byte) :
    Memory.AgreeBelow n (Memory.writeBytes m a bs) (Memory.writeBytes m' a bs) := by
  intro x hx
  by_cases hin : a ≤ x ∧ x < a + bs.length
  · obtain ⟨i, rfl⟩ := Nat.exists_eq_add_of_le hin.1
    have hi : i < bs.length := by omega
    rw [Memory.read_writeBytes_inside _ _ _ _ hm hi, Memory.read_writeBytes_inside _ _ _ _ hm' hi]
  · have hout : x < a ∨ a + bs.length ≤ x := by omega
    rw [Memory.read_writeBytes_outside _ _ _ _ hout, Memory.read_writeBytes_outside _ _ _ _ hout, h x hx]

theorem Memory.AgreeBelow.write {n : Nat} {m m' : Memory} (h : Memory.AgreeBelow n m m') (hm : Memory.wf m)
    (hm' : Memory.wf m') (a : Nat) (b : Byte) : Memory.AgreeBelow n (Memory.write m a b) (Memory.write m' a b) :=
  h.writeBytes hm hm' a [b]

/-- Bytes written from index 0 on agree whatever the RAMs held. -/
theorem Memory.agreeBelow_writeBytes_zero {m m' : Memory} (hm : Memory.wf m) (hm' : Memory.wf m') (bs : List Byte) :
    Memory.AgreeBelow bs.length (Memory.writeBytes m 0 bs) (Memory.writeBytes m' 0 bs) := by
  intro x hx
  have hr := Memory.read_writeBytes_inside m 0 x bs hm hx
  have hr' := Memory.read_writeBytes_inside m' 0 x bs hm' hx
  rw [Nat.zero_add] at hr hr'
  rw [hr, hr']

/-- The zero fill of a growth from `n` extends the agreement to the new length (R27). -/
theorem Memory.AgreeBelow.zeroFill {n : Nat} {m m' : Memory} (h : Memory.AgreeBelow n m m') (v : Nat) :
    Memory.AgreeBelow v (Memory.zeroFill m n v) (Memory.zeroFill m' n v) := by
  intro x hx
  rw [Memory.read_zeroFill, Memory.read_zeroFill]
  split
  · rfl
  · exact h x (by omega)

/-! ### States that differ above DATA_LEN alone -/

/-- The outcome `o` is the state `t` but for RAM bytes at or above DATA_LEN. -/
def AnswersBelow (t : State) (o : Host.Outcome State Fault Refusal) : Prop :=
  ∃ m', o = .next { t with ram := m' } ∧ Memory.AgreeBelow t.dataLen.toNat t.ram m'

section

variable {s : State} {m : Memory} (hs : Memory.wf s.ram) (hm : Memory.wf m) (ha : Memory.AgreeBelow s.dataLen.toNat s.ram m)

/-! ### The commands -/

include hs hm ha in
theorem packBytes_answersBelow (bs : List Byte) :
    AnswersBelow (packBytes s bs) (.next (packBytes { s with ram := m } bs)) := by
  obtain ⟨hl, he⟩ | ⟨hl, he⟩ := packBytes_cases s bs <;> rw [he]
  · exact ⟨m, congrArg _ (packBytes_of_beyond hl), ha⟩
  · exact ⟨_, congrArg _ (packBytes_of_fits hl), ha.writeBytes hs hm _ bs⟩

include ha in
/-- ENCODE's payload is DATA[0 .. DATA_LEN−1] (R120). -/
theorem encodeCommit_setRam : encodeCommit { s with ram := m } = { encodeCommit s with ram := m } := by
  simp only [encodeCommit, State.complete, ha.readBytes]

include hs hm ha in
theorem exec_answersBelow {i : Instr} {t : State} (h : exec i s = .next t) : AnswersBelow t (exec i { s with ram := m }) := by
  cases i with
  | nop => rw [execNop_cases h]; exact ⟨m, rfl, ha⟩
  | loadDefault => rw [execLoadDefault_cases h]; exact ⟨m, rfl, fun a hlt => absurd hlt (Nat.not_lt_zero a)⟩
  | decodeHdr =>
    obtain ⟨hd, c, hp, rfl⟩ | ⟨e, hp, rfl⟩ := execDecodeHdr_cases h
    · exact ⟨m, exec_decodeHdr_of_ok hp, ha⟩
    · exact ⟨m, exec_decodeHdr_of_error hp, ha⟩
  | readData =>
    obtain ⟨hp, rfl⟩ | ⟨hp, hn, rfl⟩ | ⟨hp, h0, hn, hr, rfl⟩ | ⟨hp, h0, hn, r, hr, rfl⟩ := execReadData_cases h
    · exact ⟨m, exec_readData_of_absent hp, ha⟩
    · exact ⟨m, exec_readData_of_badSize hp hn, ha⟩
    · exact ⟨m, exec_readData_of_short hp h0 hn hr, ha⟩
    · refine ⟨_, exec_readData_of_read hp h0 hn hr, fun a hlt => Memory.agreeBelow_writeBytes_zero hs hm r a ?_⟩
      rw [Source.read_length hr]
      exact Nat.lt_of_lt_of_le hlt (BitVec.toNat_ofNat _ _ ▸ Nat.mod_le _ _)
  | encodeHdr =>
    obtain ⟨hl, rfl⟩ | ⟨hl, hu, rfl⟩ | ⟨hl, hu, hp, rfl⟩ | ⟨hl, hu, hp, hc, rfl⟩ | ⟨hl, hu, hp, hc, rfl⟩ :=
      execEncodeHdr_cases h
    · exact ⟨m, exec_encodeHdr_of_overflow hl, ha⟩
    · exact ⟨m, exec_encodeHdr_of_unsupported hl hu, ha⟩
    · exact ⟨m, exec_encodeHdr_of_absent hl hu hp, ha⟩
    · exact ⟨m, exec_encodeHdr_of_short hl hu hp hc, ha⟩
    · exact ⟨m, (exec_encodeHdr_of_fits (s := { s with ram := m }) hl hu hp hc).trans (congrArg _ (encodeCommit_setRam ha)), ha⟩
  | pack16 => rw [execPack16_cases h]; exact packBytes_answersBelow hs hm ha (frame16 s)
  | pack32 => rw [execPack32_cases h]; exact packBytes_answersBelow hs hm ha (sample32 s)

/-! ### The host's operations -/

/-- No register shows the RAM. -/
@[simp] theorem readReg_setRam (s : State) (m : Memory) (r : Reg) : readReg { s with ram := m } r = readReg s r := by
  cases r <;> rfl

include ha in
theorem writeReg_answersBelow (r : Reg) (v : Word) : AnswersBelow (writeReg s r v) (.next (writeReg { s with ram := m } r v)) := by
  cases r with
  | dataLen =>
    show AnswersBelow (writeDataLen s v) (.next (writeDataLen { s with ram := m } v))
    unfold writeDataLen
    dsimp only
    split
    · exact ⟨_, rfl, ha.zeroFill v.toNat⟩
    · exact ⟨m, rfl, ha⟩
  | _ => exact ⟨m, rfl, ha⟩

include ha in
theorem hostRegWrite_answersBelow (width offset : Nat) (v : Word) :
    AnswersBelow (hostRegWrite s width offset v) (.next (hostRegWrite { s with ram := m } width offset v)) := by
  unfold hostRegWrite
  cases regAt width offset with
  | none => exact ⟨m, rfl, ha⟩
  | some r =>
    dsimp only
    split
    · exact ⟨m, rfl, ha⟩
    · exact writeReg_answersBelow ha r v

include ha in
theorem hostRegRead_answersBelow (width offset : Nat) :
    AnswersBelow (hostRegRead s width offset) (.next (hostRegRead { s with ram := m } width offset)) := by
  unfold hostRegRead
  cases regAt width offset with
  | none => exact ⟨m, rfl, ha⟩
  | some r =>
    simp only [readReg_setRam]
    split <;> exact ⟨m, rfl, ha⟩

include hs hm ha in
theorem hostDataWrite_answersBelow (i : Nat) (b : Byte) :
    AnswersBelow (hostDataWrite s i b) (.next (hostDataWrite { s with ram := m } i b)) := by
  unfold hostDataWrite dataPortWrite
  dsimp only
  split
  · exact ⟨m, rfl, ha⟩
  · split
    · exact ⟨_, rfl, ha.write hs hm i b⟩
    · exact ⟨m, rfl, ha⟩

include ha in
/-- The data port reads below DATA_LEN alone (R42). -/
theorem dataPortRead_setRam (i : Nat) : dataPortRead { s with ram := m } i = dataPortRead s i := by
  unfold dataPortRead
  dsimp only
  split
  · rename_i hi; exact ha i hi
  · rfl

include ha in
theorem hostDataRead_answersBelow (i : Nat) : AnswersBelow (hostDataRead s i) (.next (hostDataRead { s with ram := m } i)) := by
  unfold hostDataRead
  rw [dataPortRead_setRam ha]
  dsimp only
  split <;> exact ⟨m, rfl, ha⟩

include ha in
theorem hostPoll_answersBelow : AnswersBelow (hostPoll s) (.next (hostPoll { s with ram := m })) := by
  unfold hostPoll
  dsimp only
  split <;> exact ⟨m, rfl, ha⟩

include ha in
theorem hostStopOnErr_answersBelow : AnswersBelow (hostStopOnErr s) (.next (hostStopOnErr { s with ram := m })) := by
  unfold hostStopOnErr
  dsimp only
  split <;> exact ⟨m, rfl, ha⟩

include hs hm ha in
theorem runHostOp_answersBelow {op : HostOp} {t : State} (h : runHostOp op s = .next t) :
    AnswersBelow t (runHostOp op { s with ram := m }) := by
  cases op with
  | regWrite width offset v => cases h; exact hostRegWrite_answersBelow ha width offset v
  | regRead width offset => cases h; exact hostRegRead_answersBelow ha width offset
  | dataWrite i b => cases h; exact hostDataWrite_answersBelow hs hm ha i b
  | dataRead i => cases h; exact hostDataRead_answersBelow ha i
  | poll => cases h; exact hostPoll_answersBelow ha
  | stopOnErr => cases h; exact hostStopOnErr_answersBelow ha
  | reset => cases h; exact ⟨_, rfl, fun _ _ => rfl⟩
  | presentSource present bytes =>
    obtain ⟨hl, hb, rfl⟩ := hostPresentSource_cases h
    exact ⟨m, (hostPresentSource_of_length _ present hl).trans (refuseWhileBusy_idle _ hb), ha⟩
  | presentSink present cap bytes =>
    obtain ⟨hb, rfl⟩ := hostPresentSink_cases h
    exact ⟨m, refuseWhileBusy_idle _ hb, ha⟩
  | connect =>
    obtain ⟨hl, hb, rfl⟩ := hostConnect_cases h
    exact ⟨m, (hostConnect_of_length { s with ram := m } hl).trans (refuseWhileBusy_idle _ hb), ha⟩
  | readSink =>
    obtain ⟨hb, rfl⟩ := hostReadSink_cases h
    exact ⟨m, refuseWhileBusy_idle _ hb, ha⟩

end

/-- Settles O52: both states take the same kind of step, and commands and host operations carry the agreement. -/
theorem bytesAboveDataLenAreUnobservable : Obligations.BytesAboveDataLenAreUnobservable := by
  intro s t m hwf hm ha h
  show AnswersBelow t (step { s with ram := m })
  obtain ⟨hmv, -, ⟨i, hd, hs⟩ | ⟨e, hd, hs⟩⟩ | ⟨hmv, hh, hs⟩ | ⟨hmv, op, rest, hh, hs⟩ := step_cases s
  · have hstep : step { s with ram := m } = exec i { s with ram := m } := step_of_ok hmv hd
    rw [hstep]
    exact exec_answersBelow hwf hm ha (hs.symm.trans h)
  · cases hs.symm.trans h
    exact ⟨m, step_of_error hmv hd, ha⟩
  · cases hs.symm.trans h
    exact ⟨m, step_of_idle hmv hh, ha⟩
  · have hstep := step_of_host (s := { s with ram := m }) hmv hh
    rw [hstep]
    exact runHostOp_answersBelow (s := { s with host := rest, engineDelay := s.engineDelay - 1 }) hwf hm ha (hs.symm.trans h)

end Sys2Proof.Machine
end

section
/-! The byte order a tag resolves to (R61): the fourth byte decides it, whatever the other three are. -/

namespace Sys2Proof.Machine

theorem resolveOrder_of_b3_eq {t : Tag} (h : t.b3 = 0x46#8) : resolveOrder t = .le := if_pos h

theorem resolveOrder_of_b3_ne {t : Tag} (h : t.b3 ≠ 0x46#8) : resolveOrder t = .be := if_neg h

/-- Settles O10: the two branches of the comparison of t[3] with 0x46. -/
theorem fourthByteResolvesTheOrder : Obligations.FourthByteResolvesTheOrder :=
  fun _ => ⟨resolveOrder_of_b3_eq, resolveOrder_of_b3_ne⟩

end Sys2Proof.Machine
end

section
/-! The command word (R86 to R88): a word is legal when its RSVD field is 0 and its OP field is a command's opcode, and then it is
that command's encoded word. -/

namespace Sys2Proof.Machine

/-! ### The opcode map (R87) -/

/-- The opcode map's rows are the seven opcodes, one command each. -/
theorem opcodeInstr_eq_ok_iff {op : Nat} {i : Instr} : opcodeInstr op = .ok i ↔ op = (opcodeOf i).toNat := by
  constructor
  · intro h
    unfold opcodeInstr at h
    split at h <;> cases h <;> rfl
  · rintro rfl
    cases i <;> rfl

theorem opcodeInstr_of_reserved {op : Nat} (h : 7 ≤ op) : opcodeInstr op = .error .reservedOpcode := by
  obtain ⟨k, rfl⟩ := Nat.exists_eq_add_of_le' h
  rfl

/-- Below 0x07 the map has no gap. -/
theorem opcodeInstr_of_lt {op : Nat} (h : op < 7) : ∃ i, opcodeInstr op = .ok i :=
  match op, h with
  | 0, _ | 1, _ | 2, _ | 3, _ | 4, _ | 5, _ | 6, _ => ⟨_, rfl⟩

/-! ### The word (R86, R88) -/

theorem decodeWord_of_rsvd_eq {w : Word} (h : rsvdField w = 0#24) : decodeWord w = opcodeInstr (opField w).toNat := if_pos h

theorem decodeWord_of_rsvd_ne {w : Word} (h : rsvdField w ≠ 0#24) : decodeWord w = .error .reservedBits := if_neg h

theorem decodeWord_of_reserved_opcode {w : Word} (hr : rsvdField w = 0#24) (ho : 7 ≤ (opField w).toNat) :
    decodeWord w = .error .reservedOpcode :=
  (decodeWord_of_rsvd_eq hr).trans (opcodeInstr_of_reserved ho)

/-- A word is its two fields joined (R86). -/
theorem rsvdField_append_opField (w : Word) : (rsvdField w ++ opField w : Word) = w := join_extract (m := 24) (n := 8) w

/-- A word selects a command exactly when it is the command's word 0x000000OP (R87). -/
theorem decodeWord_eq_ok_iff {w : Word} {i : Instr} : decodeWord w = .ok i ↔ w = encode i := by
  constructor
  · intro h
    by_cases hr : rsvdField w = 0#24
    · rw [decodeWord_of_rsvd_eq hr, opcodeInstr_eq_ok_iff] at h
      have ho : opField w = opcodeOf i := BitVec.eq_of_toNat_eq h
      rw [← rsvdField_append_opField w, hr, ho, encode]
    · rw [decodeWord_of_rsvd_ne hr] at h
      cases h
  · rintro rfl
    exact decodeWord_encode i

/-- A word is illegal exactly when a reserved bit is set or the opcode is reserved (R88). -/
theorem decodeWord_error_iff {w : Word} : (∃ e, decodeWord w = .error e) ↔ rsvdField w ≠ 0#24 ∨ 7 ≤ (opField w).toNat := by
  constructor
  · rintro ⟨e, he⟩
    by_contra hlegal
    obtain ⟨hr, ho⟩ := not_or.mp hlegal
    obtain ⟨i, hi⟩ := opcodeInstr_of_lt (Nat.lt_of_not_le ho)
    rw [decodeWord_of_rsvd_eq (not_not.mp hr), hi] at he
    cases he
  · intro h
    by_cases hr : rsvdField w = 0#24
    · exact ⟨_, decodeWord_of_reserved_opcode hr (h.resolve_left (not_not_intro hr))⟩
    · exact ⟨_, decodeWord_of_rsvd_ne hr⟩

/-- A 32-bit table word is read as the register port takes it (R66). -/
theorem decodeTableWord_of_ok {w : Word} {i : Instr} (h : decodeWord w = .ok i) : decodeTableWord 32 w.toNat = some i := by
  have hw : w.toNat % 2 ^ 32 = w.toNat := Nat.mod_eq_of_lt w.isLt
  simp only [decodeTableWord, hw, if_pos w.isLt, BitVec.ofNat_toNat, BitVec.setWidth_eq, h]

/-- Settles O5: each word of the list is the encoded word of its command. -/
theorem eachCommandHasExactlyItsWord : Obligations.EachCommandHasExactlyItsWord :=
  fun _ => ⟨decodeWord_eq_ok_iff, decodeWord_eq_ok_iff, decodeWord_eq_ok_iff, decodeWord_eq_ok_iff, decodeWord_eq_ok_iff,
    decodeWord_eq_ok_iff, decodeWord_eq_ok_iff⟩

/-- Settles O6: the statement writes out the RSVD and OP fields. -/
theorem illegalWordsAreReservedOnes : Obligations.IllegalWordsAreReservedOnes :=
  fun _ => decodeWord_error_iff

/-- Settles O4: seven encoded words, two with a reserved opcode, two with a reserved bit set. -/
theorem writtenWordsDecode : Obligations.WrittenWordsDecode :=
  ⟨decodeWord_encode .nop, decodeWord_encode .loadDefault, decodeWord_encode .decodeHdr, decodeWord_encode .readData,
    decodeWord_encode .encodeHdr, decodeWord_encode .pack16, decodeWord_encode .pack32,
    decodeWord_of_reserved_opcode (by decide) (by decide), decodeWord_of_reserved_opcode (by decide) (by decide),
    decodeWord_of_rsvd_ne (by decide), decodeWord_of_rsvd_ne (by decide)⟩

/-- Settles O8: the word decodes to its command, and the table's number is that word. -/
theorem decodeOfEncodeIsTheCommand : Obligations.DecodeOfEncodeIsTheCommand :=
  fun i _ => ⟨decodeWord_encode i, decodeTableWord_of_ok (decodeWord_encode i)⟩

end Sys2Proof.Machine
end

section
/-! The file ENCODE emits (R82, R120): the sink after its two writes, as one list of bytes. -/

namespace Sys2Proof.Machine

/-- From index 0 on the bytes read are those the indices hold. -/
theorem Memory.readBytes_zero (m : Memory) (n : Nat) : Memory.readBytes m 0 n = (List.range n).map (Memory.read m) := by
  simp only [Memory.readBytes, Nat.zero_add]

/-- ENCODE's two requests change the sink's bytes alone. -/
theorem emitTo_eq (k : Sink) (h : Header) (payload : List Byte) :
    emitTo k h payload =
      { k with bytes := headerBytes h payload.length ++ payload ++ k.bytes.drop (44 + payload.length) } := by
  rw [← emitTo_bytes k h payload, ← emitTo_present k h payload, ← emitTo_cap k h payload]

/-- Settles O33: every check of ENCODE passes, and the commit's sink is the header, the payload and the bytes beyond. -/
theorem encodeEmitsTheFile : Obligations.EncodeEmitsTheFile := by
  intro s hl hu hp hc
  have hu : (s.params.strictLayout && unsupported s.hdr.audioFmt s.hdr.bps) = false := by
    cases hstrict : s.params.strictLayout with
    | false => rfl
    | true => exact hu hstrict
  rw [exec_encodeHdr_of_fits hl hu hp hc, encodeCommit, emitTo_eq, Memory.readBytes_length, Memory.readBytes_zero,
    headerBytes, BitVec.ofNat_toNat, BitVec.setWidth_eq]
  rfl

end Sys2Proof.Machine
end

section
/-! The host's reads of STATUS that steer its program (R91, R92): POLL, and the conditional stop of LOAD. -/

namespace Sys2Proof.Machine

/-- POLL answers STATUS, and is the next operation again while BUSY = 1 (R91). -/
theorem hostPoll_eq (s : State) :
    hostPoll s = { s with
      response := .word (readReg s .status), host := if s.status.busy then .poll :: s.host else s.host } := by
  unfold hostPoll
  split <;> rfl

/-- The stop answers STATUS, and empties the host's program when ERR = 1 (R92). -/
theorem hostStopOnErr_eq (s : State) :
    hostStopOnErr s = { s with response := .word (readReg s .status), host := if s.status.err then [] else s.host } := by
  unfold hostStopOnErr
  split <;> rfl

/-- Settles O25: the two reads of STATUS and what they leave of the program. -/
theorem pollRepeatsWhileBusy : Obligations.PollRepeatsWhileBusy :=
  fun s => ⟨congrArg _ (hostPoll_eq s), congrArg _ (hostStopOnErr_eq s)⟩

end Sys2Proof.Machine
end

section
/-! The sample width (R110): the two comparisons that decide it, and the field of INFO that shows it. -/

namespace Sys2Proof.Machine

/-- Settles O12: the two comparisons of sampleWidth, and INFO's field of it. -/
theorem sampleWidthMapping : Obligations.SampleWidthMapping := by
  refine ⟨fun bps => ⟨fun h => if_pos h, fun h => ?_, fun h8 h16 => ?_⟩, fun s => ?_⟩
  · rw [sampleWidth, if_neg (by omega), if_pos h]
  · rw [sampleWidth, if_neg h8, if_neg h16]
  · obtain ⟨-, -, hsw, -⟩ := infoWord_fields s.hdr
    exact hsw

end Sys2Proof.Machine
end

section
/-! The fields of a byte list (R8, R9, R63): a field depends on its own bytes only, so it is the same field in a read, behind other
fields, and in any list that agrees on those bytes. -/

namespace Sys2Proof.Machine

/-! ### A field depends on its own bytes only (R8, R63) -/

theorem dec16_congr {bs cs : List Byte} {a c : Nat} (ord : ByteOrder) (h : ∀ i < 2, bs.getD (a + i) 0 = cs.getD (c + i) 0) :
    dec16 bs a ord = dec16 cs c ord := by
  have h0 : bs.getD a 0 = cs.getD c 0 := h 0 (by omega)
  cases ord <;> simp only [dec16, h0, h 1 (by omega)]

theorem dec32_congr {bs cs : List Byte} {a c : Nat} (ord : ByteOrder) (h : ∀ i < 4, bs.getD (a + i) 0 = cs.getD (c + i) 0) :
    dec32 bs a ord = dec32 cs c ord := by
  have h0 : bs.getD a 0 = cs.getD c 0 := h 0 (by omega)
  cases ord <;> simp only [dec32, h0, h 1 (by omega), h 2 (by omega), h 3 (by omega)]

theorem tagAt_congr {bs cs : List Byte} {a c : Nat} (h : ∀ i < 4, bs.getD (a + i) 0 = cs.getD (c + i) 0) :
    tagAt bs a = tagAt cs c := by
  have h0 : bs.getD a 0 = cs.getD c 0 := h 0 (by omega)
  simp only [tagAt, h0, h 1 (by omega), h 2 (by omega), h 3 (by omega)]

/-! ### A field of the bytes a read gave is a field of the source (R9) -/

section
variable {src : Source} {o n : Nat} {r : List Byte} (hr : src.read o n = some r)
include hr

theorem Source.read_le_length : o + n ≤ src.bytes.length := (Source.read_eq_some.mp hr).2.1

theorem Source.read_field {k at' : Nat} (hat : at' + k ≤ n) (i : Nat) (hi : i < k) :
    r.getD (at' + i) 0 = src.bytes.getD (o + at' + i) 0 := by
  rw [Source.read_getD hr (by omega), Nat.add_assoc]

theorem dec16_read {at' : Nat} (ord : ByteOrder) (hat : at' + 2 ≤ n) : dec16 r at' ord = dec16 src.bytes (o + at') ord :=
  dec16_congr ord (Source.read_field hr hat)

theorem dec32_read {at' : Nat} (ord : ByteOrder) (hat : at' + 4 ≤ n) : dec32 r at' ord = dec32 src.bytes (o + at') ord :=
  dec32_congr ord (Source.read_field hr hat)

theorem tagAt_read {at' : Nat} (hat : at' + 4 ≤ n) : tagAt r at' = tagAt src.bytes (o + at') :=
  tagAt_congr (Source.read_field hr hat)

end

/-! ### A field behind other fields, and a field just encoded (R8, R63) -/

section
variable (bs : List Byte) (a : Nat)

/-- A field at offset `a` is the first field of what is left without the first `a` bytes. -/
theorem getD_eq_drop (i : Nat) : bs.getD (a + i) 0 = (bs.drop a).getD (0 + i) 0 := by
  simp [List.getD_eq_getElem?_getD, List.getElem?_drop]

theorem dec16_eq_drop (ord : ByteOrder) : dec16 bs a ord = dec16 (bs.drop a) 0 ord :=
  dec16_congr ord fun i _ => getD_eq_drop bs a i

theorem dec32_eq_drop (ord : ByteOrder) : dec32 bs a ord = dec32 (bs.drop a) 0 ord :=
  dec32_congr ord fun i _ => getD_eq_drop bs a i

theorem tagAt_eq_drop : tagAt bs a = tagAt (bs.drop a) 0 :=
  tagAt_congr fun i _ => getD_eq_drop bs a i

end

theorem drop_enc16_append (v : Half) (ord : ByteOrder) (ys : List Byte) (n : Nat) :
    (enc16 v ord ++ ys).drop (n + 2) = ys.drop n := by
  cases ord <;> rfl

theorem drop_enc32_append (v : Word) (ord : ByteOrder) (ys : List Byte) (n : Nat) :
    (enc32 v ord ++ ys).drop (n + 4) = ys.drop n := by
  cases ord <;> rfl

theorem drop_tagBytes_append (t : Tag) (ys : List Byte) (n : Nat) : (tagBytes t ++ ys).drop (n + 4) = ys.drop n := rfl

theorem dec16_enc16_append (v : Half) (ord : ByteOrder) (ys : List Byte) : dec16 (enc16 v ord ++ ys) 0 ord = v := by
  refine (dec16_congr ord fun i hi => ?_).trans (dec16_enc16 v ord)
  exact List.getD_append _ _ _ _ (by simpa using hi)

theorem dec32_enc32_append (v : Word) (ord : ByteOrder) (ys : List Byte) : dec32 (enc32 v ord ++ ys) 0 ord = v := by
  refine (dec32_congr ord fun i hi => ?_).trans (dec32_enc32 v ord)
  exact List.getD_append _ _ _ _ (by simpa using hi)

theorem tagAt_tagBytes_append (t : Tag) (ys : List Byte) : tagAt (tagBytes t ++ ys) 0 = t := rfl

end Sys2Proof.Machine
end

section
/-! DECODE said of the source's own bytes (R81, R113 to R116): the parse as one chain of checks, the conditions of its success, and
the bytes it does not look at. -/

namespace Sys2Proof.Machine

/-! ### The parse (R81, R113) -/

/-- B, the format block's size that the source declares, as a byte count (R81). -/
abbrev sourceB (bs : List Byte) : Nat := (sourceFmtBlk bs).toInt.toNat

theorem le_sourceB {bs : List Byte} (h : 16 ≤ (sourceFmtBlk bs).toInt) : 16 ≤ sourceB bs := by
  unfold sourceB
  omega

/-- The fields of source bytes 0 .. 19 (R81). -/
abbrev sourcePreamble (bs : List Byte) : Preamble where
  ctag := tagAt bs 0
  fileSize := dec32 bs 4 (sourceOrder bs)
  fmtTag := tagAt bs 8
  fmtMark := tagAt bs 12
  fmtBlk := sourceFmtBlk bs

/-- The tag at offset 0 resolves to the order its byte at offset 3 gives (R61, R65). -/
theorem resolveOrder_tagAt_zero (bs : List Byte) : resolveOrder (tagAt bs 0) = sourceOrder bs := rfl

/-- The layout check of a source (R112, R116). -/
abbrev sourceUnsupported (bs : List Byte) : Bool :=
  unsupported (dec16 bs 20 (sourceOrder bs)) (dec16 bs 34 (sourceOrder bs))

theorem sourceHeader_fmtBlk (bs : List Byte) (b : Nat) : (sourceHeader bs b).fmtBlk = sourceFmtBlk bs := rfl

theorem sourceUnsupported_eq (bs : List Byte) (b : Nat) :
    sourceUnsupported bs = unsupported (sourceHeader bs b).audioFmt (sourceHeader bs b).bps := rfl

theorem Source.length_lt_of_read_eq_none {src : Source} {o n : Nat} (hp : src.present = true) (h : src.read o n = none) :
    src.bytes.length < o + n :=
  (Source.read_eq_none.mp h).resolve_left (by simp [hp])

theorem parsePreamble_eq {src : Source} (hp : src.present = true) :
    parsePreamble src =
      if src.bytes.length < 4 then .error ⟨.truncatedInput, 0⟩
      else if src.bytes.length < 8 then .error ⟨.truncatedInput, 4⟩
      else if src.bytes.length < 20 then .error ⟨.truncatedInput, 8⟩
      else .ok (sourcePreamble src.bytes) := by
  unfold parsePreamble
  cases h1 : src.read 0 4 with
  | none => rw [if_pos (Source.length_lt_of_read_eq_none hp h1)]
  | some r1 =>
    rw [if_neg (Nat.not_lt.mpr (Source.read_le_length h1))]
    cases h2 : src.read 4 4 with
    | none => rw [if_pos (Source.length_lt_of_read_eq_none hp h2)]
    | some r2 =>
      rw [if_neg (Nat.not_lt.mpr (Source.read_le_length h2))]
      cases h3 : src.read 8 12 with
      | none => rw [if_pos (Source.length_lt_of_read_eq_none hp h3)]
      | some r3 =>
        rw [if_neg (Nat.not_lt.mpr (Source.read_le_length h3))]
        simp only [tagAt_read h1 (Nat.le_refl 4), dec32_read h2 _ (Nat.le_refl 4), tagAt_read h3 (show 0 + 4 ≤ 12 by omega),
          tagAt_read h3 (show 4 + 4 ≤ 12 by omega), dec32_read h3 _ (show 8 + 4 ≤ 12 by omega), Nat.add_zero,
          Nat.reduceAdd, resolveOrder_tagAt_zero]
        rfl

/-- The header that the reads of the format block and of the data marker give is the source's by the offsets (R81). -/
theorem headerOf_reads {src : Source} {b : Nat} {r4 r5 : List Byte} (hb : 16 ≤ b) (h4 : src.read 20 b = some r4)
    (h5 : src.read (20 + b) 8 = some r5) : headerOf (sourcePreamble src.bytes) r4 r5 = sourceHeader src.bytes b := by
  have h24 : 20 + b + 4 = 24 + b := by omega
  simp only [headerOf, resolveOrder_tagAt_zero, dec16_read h4 _ (show 0 + 2 ≤ b by omega),
    dec16_read h4 _ (show 2 + 2 ≤ b by omega), dec32_read h4 _ (show 4 + 4 ≤ b by omega),
    dec32_read h4 _ (show 8 + 4 ≤ b by omega), dec16_read h4 _ (show 12 + 2 ≤ b by omega),
    dec16_read h4 _ (show 14 + 2 ≤ b by omega), tagAt_read h5 (show 0 + 4 ≤ 8 by omega),
    dec32_read h5 _ (show 4 + 4 ≤ 8 by omega), Nat.add_zero, Nat.reduceAdd, h24]
  rfl

theorem parseBlocks_eq {src : Source} (strict : Bool) (hp : src.present = true) :
    parseBlocks strict src (sourcePreamble src.bytes) =
      if (sourceFmtBlk src.bytes).toInt < 16 then .error ⟨.truncatedInput, 20⟩
      else if src.bytes.length < 20 + sourceB src.bytes then .error ⟨.truncatedInput, 20⟩
      else if src.bytes.length < 28 + sourceB src.bytes then .error ⟨.truncatedInput, 20 + sourceB src.bytes⟩
      else if (strict && sourceUnsupported src.bytes) = true then .error ⟨.unsupportedLayout, 28 + sourceB src.bytes⟩
      else .ok (sourceHeader src.bytes (sourceB src.bytes), 28 + sourceB src.bytes) := by
  unfold parseBlocks
  by_cases hb : (sourceFmtBlk src.bytes).toInt < 16
  · rw [if_pos hb, if_pos hb]
  · rw [if_neg hb, if_neg hb]
    cases h4 : src.read 20 (sourceB src.bytes) with
    | none => rw [if_pos (Source.length_lt_of_read_eq_none hp h4)]
    | some r4 =>
      rw [if_neg (Nat.not_lt.mpr (Source.read_le_length h4))]
      cases h5 : src.read (20 + sourceB src.bytes) 8 with
      | none =>
        have hlen := Source.length_lt_of_read_eq_none hp h5
        rw [if_pos (by omega)]
      | some r5 =>
        have hlen := Source.read_le_length h5
        rw [if_neg (by omega)]
        simp only [headerOf_reads (le_sourceB (Int.not_lt.mp hb)) h4 h5]
        rfl

/-- DECODE's parse of any source, every check in the pseudocode's order (R113, R116). -/
theorem parseHeader_eq (strict : Bool) (src : Source) :
    parseHeader strict src =
      if src.present = false then .error ⟨.openFailure, 0⟩
      else if src.bytes.length < 4 then .error ⟨.truncatedInput, 0⟩
      else if src.bytes.length < 8 then .error ⟨.truncatedInput, 4⟩
      else if src.bytes.length < 20 then .error ⟨.truncatedInput, 8⟩
      else if (sourceFmtBlk src.bytes).toInt < 16 then .error ⟨.truncatedInput, 20⟩
      else if src.bytes.length < 20 + sourceB src.bytes then .error ⟨.truncatedInput, 20⟩
      else if src.bytes.length < 28 + sourceB src.bytes then .error ⟨.truncatedInput, 20 + sourceB src.bytes⟩
      else if (strict && sourceUnsupported src.bytes) = true then .error ⟨.unsupportedLayout, 28 + sourceB src.bytes⟩
      else .ok (sourceHeader src.bytes (sourceB src.bytes), 28 + sourceB src.bytes) := by
  unfold parseHeader
  by_cases hp : src.present = false
  · rw [if_pos hp, if_pos hp]
  · rw [if_neg hp, if_neg hp]
    have hp : src.present = true := by simpa using hp
    rw [parsePreamble_eq hp, ← parseBlocks_eq strict hp]
    split_ifs <;> rfl

/-- Behind a check that raises, a success has passed the check. -/
theorem ite_error_eq_ok_iff {ε α : Type} {p : Prop} [Decidable p] {e : ε} {r : Except ε α} {x : α} :
    (if p then .error e else r) = Except.ok x ↔ ¬ p ∧ r = .ok x := by
  split <;> simp [*]

/-- Behind a check that raises, an error is the check's or a later one. -/
theorem ite_error_eq_error_iff {ε α : Type} {p : Prop} [Decidable p] {e e' : ε} {r : Except ε α} :
    (if p then .error e' else r) = Except.error e ↔ p ∧ e' = e ∨ ¬ p ∧ r = .error e := by
  split <;> simp [*]

/-- A parse succeeds exactly on a present source with B at least 16 that holds 28 + B bytes of a layout not refused (R81, R113). -/
theorem parseHeader_eq_ok_iff {strict : Bool} {src : Source} {h : Header} {c : Nat} :
    parseHeader strict src = .ok (h, c) ↔
      src.present = true ∧ 16 ≤ (sourceFmtBlk src.bytes).toInt ∧ 28 + sourceB src.bytes ≤ src.bytes.length ∧
        (strict && sourceUnsupported src.bytes) = false ∧
        sourceHeader src.bytes (sourceB src.bytes) = h ∧ 28 + sourceB src.bytes = c := by
  simp only [parseHeader_eq, ite_error_eq_ok_iff, Except.ok.injEq, Prod.mk.injEq, Bool.not_eq_false, Bool.not_eq_true]
  constructor
  · rintro ⟨hp, -, -, -, hb, -, hmark, hlay, hhdr, hc⟩
    exact ⟨hp, Int.not_lt.mp hb, Nat.not_lt.mp hmark, hlay, hhdr, hc⟩
  · rintro ⟨hp, hb, hlen, hlay, hhdr, hc⟩
    have hb16 := le_sourceB hb
    exact ⟨hp, by omega, by omega, by omega, Int.not_lt.mpr hb, by omega, by omega, hlay, hhdr, hc⟩

/-! ### DECODE's outcomes (R113 to R116) -/

/-- The layout check, written out (R112, R116). -/
theorem layoutRefused_iff {strict : Bool} {af bps : Half} :
    (strict && unsupported af bps) = true ↔
      strict = true ∧ (af.toInt ≠ 1 ∨ (bps.toInt ≠ 8 ∧ bps.toInt ≠ 16 ∧ bps.toInt ≠ 32)) := by
  simp [unsupported, and_assoc]

/-- The state DECODE leaves for each outcome of its parse (R113). -/
def afterParse (s : State) (r : Except ParseError (Header × Nat)) : State :=
  match r with
  | .ok (h, c) => State.complete { s with hdr := h, cursor := BitVec.ofNat 32 c }
  | .error e => State.raise { s with cursor := BitVec.ofNat 32 e.cursor } e.code

theorem exec_decodeHdr_eq (s : State) :
    exec .decodeHdr s = .next (afterParse s (parseHeader s.params.strictLayout s.src)) := rfl

/-- Settles O29: the parse's checks one by one, each with the state its outcome leaves. -/
theorem decodeFollowsTheLayout : Obligations.DecodeFollowsTheLayout := by
  refine ⟨decodeWord_encode .decodeHdr, fun s => ?_⟩
  simp only [exec_decodeHdr_eq, parseHeader_eq, apply_ite (afterParse s), layoutRefused_iff]
  rfl

/-- Settles O30: the conditions are those under which the parse succeeds. -/
theorem decodeCommitsTheHeader : Obligations.DecodeCommitsTheHeader :=
  fun _ hp hb hlen hlay =>
    exec_decodeHdr_of_ok (parseHeader_eq_ok_iff.mpr ⟨hp, hb, hlen, Bool.and_eq_false_imp.mpr hlay, rfl, rfl⟩)

/-- A DECODE that ends without error has parsed a header (R113, R181). -/
theorem exec_decodeHdr_ok {s t : State} (h : exec .decodeHdr s = .next t) (hs : t.status.err = false) :
    ∃ hd c, parseHeader s.params.strictLayout s.src = .ok (hd, c) ∧ t.hdr = hd := by
  obtain ⟨hd, c, hp, rfl⟩ | ⟨e, -, rfl⟩ := execDecodeHdr_cases h
  · exact ⟨hd, c, hp, rfl⟩
  · cases hs

/-- A parse of a present source fails with TRUNCATED_INPUT unless the source holds 28 + B bytes and B is at least 16 (R114). -/
theorem parseHeader_error_of_present {strict : Bool} {src : Source} {e : ParseError} (hp : src.present = true)
    (h : parseHeader strict src = .error e) :
    e.code = .truncatedInput ∨ 16 ≤ sourceB src.bytes ∧ 28 + sourceB src.bytes ≤ src.bytes.length := by
  simp only [parseHeader_eq, ite_error_eq_error_iff] at h
  obtain ⟨habs, -⟩ | ⟨-, ⟨-, rfl⟩ | ⟨-, ⟨-, rfl⟩ | ⟨-, ⟨-, rfl⟩ | ⟨-, ⟨-, rfl⟩ |
    ⟨hb, ⟨-, rfl⟩ | ⟨-, ⟨-, rfl⟩ | ⟨hmark, -⟩⟩⟩⟩⟩⟩⟩ := h
  · simp [hp] at habs
  iterate 6 exact .inl rfl
  exact .inr ⟨le_sourceB (Int.not_lt.mp hb), Nat.not_lt.mp hmark⟩

/-- Settles O31: whatever gets past the truncation checks has B at least 16 and 28 + B bytes, so at least 44. -/
theorem shortSourceIsTruncated : Obligations.ShortSourceIsTruncated := by
  intro s
  refine ⟨fun hp hlen => ?_, fun hp => ?_, fun t h _ ht => ?_⟩
  · cases hparse : parseHeader s.params.strictLayout s.src with
    | ok r =>
      obtain ⟨-, hb, hfit, -⟩ := parseHeader_eq_ok_iff.mp hparse
      have hb16 := le_sourceB hb
      omega
    | error e =>
      obtain hcode | ⟨hb16, hfit⟩ := parseHeader_error_of_present hp hparse
      · exact ⟨_, hcode ▸ exec_decodeHdr_of_error hparse⟩
      · omega
  · exact exec_decodeHdr_of_error (e := ⟨.openFailure, 0⟩) (if_pos hp)
  · obtain ⟨hd, c, hparse, rfl⟩ := exec_decodeHdr_ok h ht
    obtain ⟨-, hb, hfit, -, hhdr, -⟩ := parseHeader_eq_ok_iff.mp hparse
    rw [← hhdr]
    exact ⟨hb, hfit⟩

/-! ### The bytes of a padded format block (R115) -/

section
variable {bs other : List Byte} {b : Nat} (h : ∀ o, ¬ (36 ≤ o ∧ o < 20 + b) → other.getD o 0 = bs.getD o 0)
include h

/-- Off the padding, a field of either source is the same bytes. -/
theorem field_of_agree {a k : Nat} (ha : a + k ≤ 36 ∨ 20 + b ≤ a) (i : Nat) (hi : i < k) :
    other.getD (a + i) 0 = bs.getD (a + i) 0 :=
  h _ (by omega)

theorem dec16_of_agree {a : Nat} (ord : ByteOrder) (ha : a + 2 ≤ 36 ∨ 20 + b ≤ a) : dec16 other a ord = dec16 bs a ord :=
  dec16_congr ord (field_of_agree h ha)

theorem dec32_of_agree {a : Nat} (ord : ByteOrder) (ha : a + 4 ≤ 36 ∨ 20 + b ≤ a) : dec32 other a ord = dec32 bs a ord :=
  dec32_congr ord (field_of_agree h ha)

theorem tagAt_of_agree {a : Nat} (ha : a + 4 ≤ 36 ∨ 20 + b ≤ a) : tagAt other a = tagAt bs a :=
  tagAt_congr (field_of_agree h ha)

theorem sourceOrder_of_agree : sourceOrder other = sourceOrder bs := by
  rw [sourceOrder, sourceOrder, h 3 (by omega)]

theorem sourceFmtBlk_of_agree : sourceFmtBlk other = sourceFmtBlk bs := by
  rw [sourceFmtBlk, sourceFmtBlk, sourceOrder_of_agree h, dec32_of_agree h _ (by omega)]

/-- Every offset of the layout is off the padding (R81). -/
theorem sourceHeader_of_agree : sourceHeader other b = sourceHeader bs b := by
  simp (disch := omega) only [sourceHeader, sourceOrder_of_agree h, dec16_of_agree h, dec32_of_agree h, tagAt_of_agree h]

theorem sourceUnsupported_of_agree : sourceUnsupported other = sourceUnsupported bs := by
  simp (disch := omega) only [sourceUnsupported, sourceOrder_of_agree h, dec16_of_agree h]

end

/-- Sources of one length that agree off the padding parse alike (R115). -/
theorem parseHeader_of_agree (strict present : Bool) {bs other : List Byte} (hlen : other.length = bs.length)
    (h : ∀ o, ¬ (36 ≤ o ∧ o < 20 + sourceB bs) → other.getD o 0 = bs.getD o 0) :
    parseHeader strict ⟨present, other⟩ = parseHeader strict ⟨present, bs⟩ := by
  simp only [parseHeader_eq, hlen, sourceB, sourceFmtBlk_of_agree h, sourceHeader_of_agree h, sourceUnsupported_of_agree h]

/-- DECODE answers for another source what the parse of that source gives. -/
theorem exec_decodeHdr_setSource {s t : State} {k : Source} (hsh : s.shared = false)
    (hparse : parseHeader s.params.strictLayout k = parseHeader s.params.strictLayout s.source) (h : exec .decodeHdr s = .next t) :
    exec .decodeHdr { s with source := k } = .next { t with source := k } := by
  have hk : State.src { s with source := k } = k := State.src_apart _ hsh
  rw [← State.src_apart s hsh] at hparse
  obtain ⟨hd, c, hp, rfl⟩ | ⟨e, hp, rfl⟩ := execDecodeHdr_cases h
  · exact exec_decodeHdr_of_ok (by rw [hk]; exact hparse.trans hp)
  · exact exec_decodeHdr_of_error (by rw [hk]; exact hparse.trans hp)

/-- Settles O32: the parse sees the source through its fields and its length, and a commit holds the declared B. -/
theorem paddedFormatBytesAreDiscarded : Obligations.PaddedFormatBytesAreDiscarded := by
  refine ⟨fun s other hsh hlen hagree t h => ?_, fun s t h _ ht hb => ?_⟩
  · exact exec_decodeHdr_setSource hsh (parseHeader_of_agree _ _ hlen hagree) h
  · obtain ⟨hd, c, hparse, rfl⟩ := exec_decodeHdr_ok h ht
    obtain ⟨-, -, -, -, hhdr, -⟩ := parseHeader_eq_ok_iff.mp hparse
    have hfmt : t.hdr.fmtBlk = sourceFmtBlk s.src.bytes := by rw [← hhdr]; rfl
    obtain ⟨-, -, -, -, -, hext, -⟩ := infoWord_fields t.hdr
    exact ⟨hfmt, hext.trans ((ofBool_extFmt _).trans (if_pos (hfmt ▸ hb)))⟩

end Sys2Proof.Machine
end

section
/-! ENCODE's errors (R120), and the round trip (R122): the fields of the emitted file are the header's, and the payload stands behind
them. -/

namespace Sys2Proof.Machine

/-! ### ENCODE's errors (R120) -/

/-- The layout check of a command, passed (R112). -/
theorem layout_not_refused {strict u : Bool} (h : ¬ (strict = true ∧ u = true)) : (strict && u) = false :=
  Bool.eq_false_iff.mpr (h ∘ Bool.and_eq_true_iff.mp)

/-- Settles O34: one equation of ENCODE per error, and the bounds of an unspecified sink. -/
theorem encodeErrorsInOrder : Obligations.EncodeErrorsInOrder := by
  intro s
  refine ⟨exec_encodeHdr_of_overflow, fun hl hs hu => ?_, fun hl hok hp => ?_, fun hl hok hp hc => ?_⟩
  · exact exec_encodeHdr_of_unsupported hl (Bool.and_eq_true_iff.mpr ⟨hs, hu⟩)
  · exact exec_encodeHdr_of_absent hl (layout_not_refused hok) hp
  · have hexec := exec_encodeHdr_of_short hl (layout_not_refused hok) hp hc
    refine ⟨(s.sink.scramble s.sink.cap.val s.draws).bytes, hexec, ?_, ?_, fun o ho => Sink.scramble_getD _ _ _ o ho⟩
    · exact Sink.scramble_length .. ▸ (Sink.freeLen_bounds ..).1
    · exact Sink.scramble_length .. ▸ (Sink.freeLen_bounds ..).2

/-! ### The emitted header, read back (R82, R122) -/

/-- The header whose fields an ENCODE of `len` payload bytes emits: H_FMTBLK = 16, H_DATASIZE = L and H_FILESIZE = 44 + L
(R120, R122). -/
def emittedHeader (h : Header) (len : Word) : Header :=
  { h with fmtBlk := 16#32, dataSize := len, fileSize := BitVec.ofNat 32 (44 + len.toNat) }

theorem sourceOrder_headerBytes (h : Header) (len : Nat) (ys : List Byte) :
    sourceOrder (headerBytes h len ++ ys) = resolveOrder h.ctag := by
  rw [← resolveOrder_tagAt_zero]
  simp only [headerBytes, List.append_assoc, tagAt_tagBytes_append]

/-- Each field of the layout starts where the fields emitted before it end (R81, R82). -/
theorem sourceHeader_headerBytes (h : Header) (len : Word) (ys : List Byte) :
    sourceHeader (headerBytes h len.toNat ++ ys) 16 = emittedHeader h len := by
  simp only [sourceHeader, sourceOrder_headerBytes, dec16_eq_drop (headerBytes h len.toNat ++ ys),
    dec32_eq_drop (headerBytes h len.toNat ++ ys), tagAt_eq_drop (headerBytes h len.toNat ++ ys)]
  simp only [headerBytes, List.append_assoc, Nat.reduceAdd, drop_tagBytes_append, drop_enc16_append, drop_enc32_append,
    List.drop_zero, dec16_enc16_append, dec32_enc32_append, tagAt_tagBytes_append, BitVec.ofNat_toNat, BitVec.setWidth_eq]
  rfl

theorem sourceFmtBlk_headerBytes (h : Header) (len : Word) (ys : List Byte) :
    sourceFmtBlk (headerBytes h len.toNat ++ ys) = 16#32 := by
  rw [← sourceHeader_fmtBlk _ 16, sourceHeader_headerBytes]
  rfl

theorem sourceB_headerBytes (h : Header) (len : Word) (ys : List Byte) : sourceB (headerBytes h len.toNat ++ ys) = 16 := by
  rw [sourceB, sourceFmtBlk_headerBytes]
  rfl

/-- A file that begins with emitted header bytes parses to the recomputed header and 44 bytes consumed, unless its layout is
refused (R122). -/
theorem parseHeader_headerBytes {strict : Bool} {h : Header} (hlay : (strict && unsupported h.audioFmt h.bps) = false) (len : Word)
    (ys : List Byte) : parseHeader strict ⟨true, headerBytes h len.toNat ++ ys⟩ = .ok (emittedHeader h len, 44) := by
  refine parseHeader_eq_ok_iff.mpr ⟨rfl, ?_, ?_, ?_, ?_, ?_⟩
  · rw [sourceFmtBlk_headerBytes]
    decide
  · simp [sourceB_headerBytes]
  · rw [sourceUnsupported_eq _ 16, sourceHeader_headerBytes]
    exact hlay
  · rw [sourceB_headerBytes, sourceHeader_headerBytes]
  · rw [sourceB_headerBytes]

/-! ### The round trip (R122) -/

/-- READ_DATA of a size that is no negative number: the word H_DATASIZE itself is the new DATA_LEN (R153). -/
theorem exec_readData_of_size {s : State} {r : List Byte} (hp : s.src.present = true) (hpos : s.hdr.dataSize.toNat < 2147483648)
    (hcap : s.hdr.dataSize.toNat ≤ s.params.dataCap.val)
    (hr : s.src.read s.cursor.toNat s.hdr.dataSize.toNat = some r) :
    exec .readData s = .next (State.complete { s with
      ram := Memory.writeBytes s.ram 0 r
      dataLen := s.hdr.dataSize
      cursor := BitVec.ofNat 32 (s.cursor.toNat + s.hdr.dataSize.toNat) }) := by
  have hint : s.hdr.dataSize.toInt = (s.hdr.dataSize.toNat : Int) := BitVec.toInt_eq_toNat_of_lt (by omega)
  have hnat : s.hdr.dataSize.toInt.toNat = s.hdr.dataSize.toNat := by rw [hint, Int.toNat_natCast]
  rw [← hnat] at hr
  rw [exec_readData_of_read hp (by omega) (by omega) hr, hnat, BitVec.ofNat_toNat, BitVec.setWidth_eq]

/-- Bytes read from the RAM and written back where they were leave it as it reads (R9). -/
theorem Memory.read_writeBytes_readBytes {m : Memory} (hm : Memory.wf m) {a n : Nat} (ha : a < n) :
    Memory.read (Memory.writeBytes m 0 (Memory.readBytes m 0 n)) a = Memory.read m a := by
  have hin := Memory.read_writeBytes_inside m 0 a (Memory.readBytes m 0 n) hm (by simpa using ha)
  rw [Memory.readBytes_getD m 0 n a ha] at hin
  simpa using hin

/-- The payload an ENCODE emits: DATA[0 .. L−1] (R120). -/
def emittedPayload (s : State) : List Byte := Memory.readBytes s.ram 0 s.dataLen.toNat

/-- An ENCODE that succeeded, with the sink then connected to the source port (R77, R122). -/
def presentedBack (s : State) : State := { encodeCommit s with shared := true }

/-- What DECODE leaves of it: the emitted header, and the cursor at the payload. -/
def decodedBack (s : State) : State :=
  State.complete { presentedBack s with hdr := emittedHeader s.hdr s.dataLen, cursor := 44#32 }

theorem emittedPayload_length (s : State) : (emittedPayload s).length = s.dataLen.toNat := Memory.readBytes_length ..

theorem presentedBack_src {s : State} (hp : s.sink.present = true) :
    (presentedBack s).src =
      ⟨true, headerBytes s.hdr s.dataLen.toNat ++ (emittedPayload s ++ s.sink.bytes.drop (44 + s.dataLen.toNat))⟩ := by
  have hsink : (presentedBack s).sink = emitTo s.sink s.hdr (emittedPayload s) := rfl
  rw [State.src_shared _ rfl, hsink, emitTo_present, hp, emitTo_bytes, emittedPayload_length, List.append_assoc]

theorem exec_decodeHdr_presentedBack {s : State} (hp : s.sink.present = true)
    (hu : (s.params.strictLayout && unsupported s.hdr.audioFmt s.hdr.bps) = false) :
    exec .decodeHdr (presentedBack s) = .next (decodedBack s) := by
  refine exec_decodeHdr_of_ok (s := presentedBack s) ?_
  rw [presentedBack_src hp]
  exact parseHeader_headerBytes hu _ _

/-- The payload stands in the emitted file right behind the header (R82). -/
theorem decodedBack_read {s : State} (hp : s.sink.present = true) :
    (decodedBack s).src.read 44 s.dataLen.toNat = some (emittedPayload s) := by
  have hsrc : (decodedBack s).src = (presentedBack s).src := rfl
  rw [hsrc, presentedBack_src hp, Source.read_eq_some]
  refine ⟨rfl, ?_, ?_⟩
  · simp [emittedPayload_length]
  · rw [List.drop_left' (headerBytes_length ..), List.take_left' (emittedPayload_length s)]

/-- Settles O57: the emitted header parses to the old one but for the recomputed fields, and the payload stands at the cursor. -/
theorem encodeThenDecodeGivesTheHeaderBack : Obligations.EncodeThenDecodeGivesTheHeaderBack := by
  intro s hinv hp hc hl hok
  obtain ⟨⟨hcap, hwf, -⟩, -, -⟩ := hinv
  have hu := layout_not_refused hok
  have hpres : (decodedBack s).src.present = true := (emitTo_present ..).trans hp
  have hread := exec_readData_of_size (s := decodedBack s) hpres (show s.dataLen.toNat < 2147483648 by omega) hcap
    (decodedBack_read hp)
  exact ⟨encodeCommit s, decodedBack s, _, exec_encodeHdr_of_fits hl hu hp hc, rfl, exec_decodeHdr_presentedBack hp hu, rfl, rfl,
    rfl, hread, rfl, rfl, rfl, rfl, fun a ha => Memory.read_writeBytes_readBytes hwf ha⟩

end Sys2Proof.Machine
end

section
/-! The container commands NOP, DEFAULT and READ_DATA, and the packers (R151 to R155): each leaves STATUS as its rule says, and the two
that write bytes write a named list of them at one place. -/

namespace Sys2Proof.Machine

/-! ### The control commands (R151, R152) -/

/-- Settles O27: the word is NOP's, and NOP is the completion alone. -/
theorem nopCompletesWithoutEffect : Obligations.NopCompletesWithoutEffect :=
  ⟨decodeWord_encode .nop, fun _ => rfl⟩

/-- DEFAULT sets the header to the template and empties the Data buffer, whatever they were (R152). -/
theorem exec_loadDefault_eq (s : State) :
    exec .loadDefault s = .next { s with
      hdr := defaultHeader, dataLen := 0#32, cursor := 0#32, status := completed s.status } := rfl

/-- The template's tags, read as registers (R36, R152). -/
theorem defaultHeader_tags :
    tagToReg defaultHeader.ctag = 0x46464952#32 ∧ tagToReg defaultHeader.fmtTag = 0x45564157#32 ∧
      tagToReg defaultHeader.fmtMark = 0x20746D66#32 ∧ tagToReg defaultHeader.dataMark = 0x61746164#32 := by decide

/-- The template is little-endian, 16 bits wide, and raises no flag of INFO (R158). -/
theorem infoWord_defaultHeader : infoWord defaultHeader = 0x00000020#32 := by decide

/-- Settles O28: the registers of the next state read the template, whose numbers are those of R152. -/
theorem defaultLoadsTheTemplate : Obligations.DefaultLoadsTheTemplate := by
  refine ⟨decodeWord_encode .loadDefault, fun s => ⟨_, exec_loadDefault_eq s, ?_⟩⟩
  obtain ⟨hctag, hfmtTag, hfmtMark, hdataMark⟩ := defaultHeader_tags
  exact ⟨hctag, rfl, hfmtTag, hfmtMark, rfl, rfl, rfl, rfl, rfl, rfl, rfl, hdataMark, rfl, infoWord_defaultHeader, rfl⟩

/-! ### Bytes written at one place (R9) -/

/-- After MemWrite every index reads the byte written there, or what it read before. -/
theorem Memory.read_writeBytes {m : Memory} (hm : Memory.wf m) (a : Nat) (bs : List Byte) (x : Nat) :
    Memory.read (Memory.writeBytes m a bs) x =
      if a ≤ x ∧ x < a + bs.length then bs.getD (x - a) 0 else Memory.read m x := by
  split
  · next h =>
    obtain ⟨i, rfl⟩ := Nat.exists_eq_add_of_le h.1
    rw [Memory.read_writeBytes_inside _ _ _ _ hm (by omega), Nat.add_sub_cancel_left]
  · exact Memory.read_writeBytes_outside _ _ _ _ (by omega)

/-! ### READ_DATA (R153) -/

/-- A size that is no negative number is its own unsigned value (R153). -/
theorem toInt_eq_toNat_of_nonneg {w : Word} (h : 0 ≤ w.toInt) : w.toInt = (w.toNat : Int) ∧ w.toNat < 2147483648 := by
  rw [BitVec.toInt_eq_toNat_cond] at h ⊢
  split at h <;> omega

/-- READ_DATA's last request is short when the payload ends beyond the source (R9, R153). -/
theorem exec_readData_of_beyond {s : State} (hp : s.src.present = true) (h0 : 0 ≤ s.hdr.dataSize.toInt)
    (hn : s.hdr.dataSize.toInt ≤ (s.params.dataCap.val : Int))
    (hl : (s.src.bytes.length : Int) < s.cursor.toNat + s.hdr.dataSize.toInt) :
    exec .readData s = .next (s.raise .truncatedInput) :=
  exec_readData_of_short hp h0 hn (Source.read_eq_none.mpr (.inr (by omega)))

/-- READ_DATA of a payload that lies in the source: the bytes at the cursor go to DATA[0 .. n−1] (R153). -/
theorem exec_readData_of_within {s : State} (hp : s.src.present = true) (h0 : 0 ≤ s.hdr.dataSize.toInt)
    (hn : s.hdr.dataSize.toInt ≤ (s.params.dataCap.val : Int))
    (hl : s.cursor.toNat + s.hdr.dataSize.toNat ≤ s.src.bytes.length) :
    ∃ r, s.src.read s.cursor.toNat s.hdr.dataSize.toNat = some r ∧
      exec .readData s = .next { s with
        ram := Memory.writeBytes s.ram 0 r, dataLen := s.hdr.dataSize, cursor := s.cursor + s.hdr.dataSize,
        status := completed s.status } := by
  obtain ⟨hint, hlt⟩ := toInt_eq_toNat_of_nonneg h0
  have hread := Source.read_eq_some.mpr ⟨hp, hl, rfl⟩
  exact ⟨_, hread, exec_readData_of_size hp hlt (by omega) hread⟩

/-- Settles O35: one equation of READ_DATA per check, and after the last one the bytes of a MemWrite at 0. -/
theorem readDataCopiesThePayload : Obligations.ReadDataCopiesThePayload := by
  refine ⟨decodeWord_encode .readData, fun s =>
    ⟨exec_readData_of_absent, exec_readData_of_badSize, exec_readData_of_beyond, fun hp h0 hn hl hinv => ?_⟩⟩
  obtain ⟨⟨-, hwf, -⟩, -, hsrc⟩ := hinv
  obtain ⟨hint, -⟩ := toInt_eq_toNat_of_nonneg h0
  have hl : s.cursor.toNat + s.hdr.dataSize.toNat ≤ s.src.bytes.length := by omega
  obtain ⟨r, hread, hexec⟩ := exec_readData_of_within hp h0 hn hl
  refine ⟨_, hexec, Nat.lt_of_le_of_lt hl hsrc, fun a => ?_⟩
  rw [Memory.read_writeBytes hwf, Source.read_length hread]
  simp only [Nat.zero_le, true_and, Nat.zero_add, Nat.sub_zero]
  split
  · next ha => exact Source.read_getD hread ha
  · rfl

/-! ### The packers (R154, R155) -/

/-- The two low bytes of a word are those of its low half (R154). -/
theorem extractLsb'_lowHalf (v : Word) :
    (lowHalf v).extractLsb' 0 8 = v.extractLsb' 0 8 ∧ (lowHalf v).extractLsb' 8 8 = v.extractLsb' 8 8 := by
  constructor <;> simp [lowHalf, BitVec.extractLsb'_extractLsb'_of_le]

/-- Byte `k` of the frame: the sample in the header's order stands in the left slot and again in the right one (R154). -/
theorem frame16_getD (s : State) {k : Nat} (hk : k < 4) :
    (frame16 s).getD k 0 =
      if k = 0 ∨ k = 2 then if s.hdr.ctag.b3 = 0x46#8 then s.pkSample.extractLsb' 0 8 else s.pkSample.extractLsb' 8 8
      else if s.hdr.ctag.b3 = 0x46#8 then s.pkSample.extractLsb' 8 8 else s.pkSample.extractLsb' 0 8 := by
  obtain ⟨hlow, hhigh⟩ := extractLsb'_lowHalf s.pkSample
  by_cases h : s.hdr.ctag.b3 = 0x46#8
  · rw [frame16, resolveOrder_of_b3_eq h, if_pos h, if_pos h, ← hlow, ← hhigh]
    match k, hk with
    | 0, _ | 1, _ | 2, _ | 3, _ => rfl
  · rw [frame16, resolveOrder_of_b3_ne h, if_neg h, if_neg h, ← hlow, ← hhigh]
    match k, hk with
    | 0, _ | 1, _ | 2, _ | 3, _ => rfl

/-- Byte `k` of the packed sample in the header's order (R155). -/
theorem sample32_getD (s : State) {k : Nat} (hk : k < 4) :
    (sample32 s).getD k 0 =
      if s.hdr.ctag.b3 = 0x46#8 then s.pkSample.extractLsb' (8 * k) 8 else s.pkSample.extractLsb' (8 * (3 - k)) 8 := by
  split
  · next h => rw [sample32, resolveOrder_of_b3_eq h, enc32_le_getD _ hk]
  · next h => rw [sample32, resolveOrder_of_b3_ne h, enc32_be_getD _ hk]

/-- Settles O36: both cases are the packer's, and the frame's four bytes stand at PK_INDEX. -/
theorem pack16WritesTheFrame : Obligations.Pack16WritesTheFrame := by
  refine ⟨decodeWord_encode .pack16, fun s => ⟨fun h => congrArg _ (packBytes_of_beyond h), fun h hwf =>
    ⟨_, congrArg _ (packBytes_of_fits h), fun a => ?_⟩⟩⟩
  by_cases ha : s.pkIndex.toNat ≤ a ∧ a < s.pkIndex.toNat + 4
  · obtain ⟨k, rfl⟩ := Nat.exists_eq_add_of_le ha.1
    have hk : k < 4 := by omega
    rw [Memory.read_writeBytes_inside _ _ _ _ hwf (by simpa using hk), frame16_getD s hk]
    have hslot : (k = 0 ∨ k = 2) = (s.pkIndex.toNat + k = s.pkIndex.toNat ∨ s.pkIndex.toNat + k = s.pkIndex.toNat + 2) :=
      propext (by omega)
    exact ite_congr hslot (fun _ => rfl) fun hother => (if_pos (by omega)).symm
  · rw [if_neg (by omega), if_neg (by omega)]
    exact Memory.read_writeBytes_outside _ _ _ _ (by rw [frame16_length]; omega)

/-- Settles O37: both cases are the packer's, and the sample's four bytes stand at PK_INDEX. -/
theorem pack32WritesTheSample : Obligations.Pack32WritesTheSample := by
  refine ⟨decodeWord_encode .pack32, fun s => ⟨fun h => congrArg _ (packBytes_of_beyond h), fun h hwf =>
    ⟨_, congrArg _ (packBytes_of_fits h), fun k hk => ?_, fun a ha => ?_⟩⟩⟩
  · rw [Memory.read_writeBytes_inside _ _ _ _ hwf (by simpa using hk), sample32_getD s hk]
  · exact Memory.read_writeBytes_outside _ _ _ _ (by simpa using ha)

end Sys2Proof.Machine
end

section
/-! Exceptions: the illegal command word (R88, R184), what a raised error leaves (R181, R183, R187), the error codes of each command
(R180), and the steps that are refused (R78, R192, R193, R215). -/

namespace Sys2Proof.Machine

/-- Settles O7: the word decodes to no command, and the LASTOP that raise keeps is the latched word's low byte. -/
theorem illegalWordRaisesIllegalCommand : Obligations.IllegalWordRaisesIllegalCommand := by
  intro s hinv hb hdue hw
  obtain ⟨-, ⟨-, -, -, hlast⟩, -⟩ := hinv
  obtain ⟨e, he⟩ := decodeWord_error_iff.mpr hw
  rw [show s.latched.extractLsb' 0 8 = s.status.lastop from hlast.symm]
  exact step_of_error ((engineMoves_eq_true_iff s).mpr ⟨hb, hdue⟩) he

/-! ### How a command ends (R180, R181) -/

/-- The errors a command's rule raises (R113, R120, R153 to R155, R180). -/
def raisable (i : Instr) : List ErrCode :=
  match i with
  | .nop | .loadDefault => []
  | .decodeHdr => [.openFailure, .truncatedInput, .unsupportedLayout]
  | .readData => [.openFailure, .outOfRange, .truncatedInput]
  | .encodeHdr => [.lengthOverflow, .unsupportedLayout, .openFailure, .shortWrite]
  | .pack16 | .pack32 => [.outOfRange]

/-- UNSUPPORTED_LAYOUT is raised under STRICT_LAYOUT only (R112). -/
def LayoutChecked (s : State) (e : ErrCode) : Prop := e = .unsupportedLayout → s.params.strictLayout = true

/-- `t` is what command `i` leaves of `s` when it raises `e`. -/
structure RaiseEnds (i : Instr) (s : State) (e : ErrCode) (t : State) : Prop where
  own_error : e ∈ raisable i
  layout : LayoutChecked s e
  /-- R181, R183: STATUS, and at most CURSOR, the sink and the draws. -/
  frame : t = { s with status := failed s.status e, cursor := t.cursor, sink := t.sink, draws := t.draws }
  /-- R187: DECODE alone leaves a CURSOR. -/
  cursor : i ≠ .decodeHdr → t.cursor = s.cursor
  /-- R120: SHORT_WRITE alone leaves bytes in the sink. -/
  sink : e ≠ .shortWrite → t.sink = s.sink ∧ t.draws = s.draws

/-- A raise with nothing written before it. -/
theorem raiseEnds_raise {i : Instr} {s : State} {e : ErrCode} (hr : e ∈ raisable i) (hl : LayoutChecked s e) :
    RaiseEnds i s e (s.raise e) :=
  ⟨hr, hl, rfl, fun _ => rfl, fun _ => ⟨rfl, rfl⟩⟩

theorem parseHeader_error_raisable {strict : Bool} {src : Source} {e : ParseError} (h : parseHeader strict src = .error e) :
    e.code ∈ raisable .decodeHdr ∧ (e.code = .unsupportedLayout → strict = true) := by
  unfold parseHeader at h
  split at h
  · cases h; exact ⟨by decide, nofun⟩
  · split at h
    · rename_i hp
      cases h
      rw [(parsePreamble_error hp).1]
      exact ⟨by decide, nofun⟩
    · obtain ⟨hc, -⟩ | ⟨hs, hc, -⟩ := parseBlocks_error h
      · rw [hc]; exact ⟨by decide, nofun⟩
      · rw [hc]; exact ⟨by decide, fun _ => hs⟩

/-- A packer completes or raises OUT_OF_RANGE. -/
theorem packBytes_completes_or_raises {i : Instr} (s : State) (bs : List Byte) (hr : .outOfRange ∈ raisable i) :
    (packBytes s bs).status = completed s.status ∨ ∃ e, RaiseEnds i s e (packBytes s bs) := by
  obtain ⟨-, h⟩ | ⟨-, h⟩ := packBytes_cases s bs <;> rw [h]
  · exact .inr ⟨_, raiseEnds_raise hr nofun⟩
  · exact .inl rfl

/-- Every command completes without error or raises one of its own errors. -/
theorem exec_completes_or_raises {i : Instr} {s t : State} (h : exec i s = .next t) :
    t.status = completed s.status ∨ ∃ e, RaiseEnds i s e t := by
  cases i with
  | nop => rw [execNop_cases h]; exact .inl rfl
  | loadDefault => rw [execLoadDefault_cases h]; exact .inl rfl
  | decodeHdr =>
    obtain ⟨hd, c, -, rfl⟩ | ⟨e, hp, rfl⟩ := execDecodeHdr_cases h
    · exact .inl rfl
    · obtain ⟨hr, hl⟩ := parseHeader_error_raisable hp
      exact .inr ⟨e.code, hr, hl, rfl, fun hne => absurd rfl hne, fun _ => ⟨rfl, rfl⟩⟩
  | readData =>
    obtain ⟨-, rfl⟩ | ⟨-, -, rfl⟩ | ⟨-, -, -, -, rfl⟩ | ⟨-, -, -, r, -, rfl⟩ := execReadData_cases h
    · exact .inr ⟨_, raiseEnds_raise (by decide) nofun⟩
    · exact .inr ⟨_, raiseEnds_raise (by decide) nofun⟩
    · exact .inr ⟨_, raiseEnds_raise (by decide) nofun⟩
    · exact .inl rfl
  | encodeHdr =>
    obtain ⟨-, rfl⟩ | ⟨-, hu, rfl⟩ | ⟨-, -, -, rfl⟩ | ⟨-, -, -, -, rfl⟩ | ⟨-, -, -, -, rfl⟩ := execEncodeHdr_cases h
    · exact .inr ⟨_, raiseEnds_raise (by decide) nofun⟩
    · exact .inr ⟨_, raiseEnds_raise (by decide) fun _ => (Bool.and_eq_true_iff.mp hu).1⟩
    · exact .inr ⟨_, raiseEnds_raise (by decide) nofun⟩
    · exact .inr ⟨.shortWrite, by decide, nofun, rfl, fun _ => rfl, fun hne => absurd rfl hne⟩
    · exact .inl rfl
  | pack16 => rw [execPack16_cases h]; exact packBytes_completes_or_raises s _ (by decide)
  | pack32 => rw [execPack32_cases h]; exact packBytes_completes_or_raises s _ (by decide)

theorem RaiseEnds.errcode {i : Instr} {s t : State} {e : ErrCode} (h : RaiseEnds i s e t) : t.status.errcode = e :=
  (congrArg (·.status.errcode) h.frame :)

/-- Settles O39: a completion keeps ERRCODE 0, so the command has raised, and what its raise leaves is as stated. -/
theorem errorsChangeOnlyStatus : Obligations.ErrorsChangeOnlyStatus := by
  intro i s t h hs ht
  obtain hc | ⟨e, he⟩ := exec_completes_or_raises h
  · exact absurd ((congrArg Status.errcode hc).trans hs) ht
  · obtain rfl := he.errcode
    exact ⟨he.frame, he.cursor, he.sink⟩

/-- From ERRCODE 0 a command ends in ERRCODE 0 or in one of its own errors. -/
theorem exec_errcode {i : Instr} {s t : State} (h : exec i s = .next t) (hs : s.status.errcode = .none) :
    t.status.errcode ∈ .none :: raisable i ∧ LayoutChecked s t.status.errcode := by
  obtain hc | ⟨e, he⟩ := exec_completes_or_raises h
  · have ht : t.status.errcode = .none := (congrArg Status.errcode hc).trans hs
    rw [ht]
    exact ⟨List.mem_cons_self, nofun⟩
  · rw [he.errcode]
    exact ⟨List.mem_cons_of_mem _ he.own_error, he.layout⟩

/-- Settles O40: the lists of the statement are ERRCODE 0 and the errors of the command. -/
theorem errorCodesOfEachCommand : Obligations.ErrorCodesOfEachCommand := by
  intro i s t h hs
  obtain ⟨hmem, hlayout⟩ := exec_errcode h hs
  refine ⟨?_, ?_, ?_, ?_, ?_, fun hstrict hu => Bool.noConfusion (hstrict.symm.trans (hlayout hu))⟩
  · rintro (rfl | rfl) <;> exact List.mem_singleton.mp hmem
  · rintro rfl; exact hmem
  · rintro rfl; exact hmem
  · rintro rfl; exact hmem
  · rintro (rfl | rfl) <;> exact hmem

/-! ### Steps that are refused (R78, R192, R193, R215) -/

/-- Every command answers a next state (R193). -/
theorem exec_answers (i : Instr) (s : State) : ∃ t, exec i s = .next t := by
  obtain ⟨u, o, -, -, he⟩ := exec_ends i s
  exact ⟨_, he s.status⟩

/-- The engine's step answers a next state, whatever the latched word is (R184, R193). -/
theorem step_answers_of_engineMoves {s : State} (hm : engineMoves s = true) : ∃ t, step s = .next t := by
  cases hd : decodeWord s.latched with
  | ok i =>
    rw [step_of_ok hm hd]
    exact exec_answers i s
  | error e => exact ⟨_, step_of_error hm hd⟩

/-- The two reasons for which the model has no move for a host operation: SRC_LEN would reach 2^32 (R5), or a resource is asked for
while BUSY = 1 (R78, R215). -/
def RefusedFor (s : State) (op : HostOp) (r : Refusal) : Prop :=
  (r = .sourceTooLong ∧
      ((∃ present bytes, op = .presentSource present bytes ∧ 4294967296 ≤ bytes.length) ∨
        (op = .connect ∧ 4294967296 ≤ s.sink.bytes.length))) ∨
    (r = .resourceWhileBusy ∧ s.status.busy = true ∧
      ((∃ present bytes, op = .presentSource present bytes ∧ bytes.length < 4294967296) ∨
        (∃ present cap bytes, op = .presentSink present cap bytes) ∨
        (op = .connect ∧ s.sink.bytes.length < 4294967296) ∨ op = .readSink))

theorem refuseWhileBusy_eq_refused {s t : State} {r : Refusal} :
    refuseWhileBusy s t = .refused r ↔ r = .resourceWhileBusy ∧ s.status.busy = true := by
  unfold refuseWhileBusy
  split <;> simp [*, eq_comm]

theorem refuseWhileBusy_ne_fault (s t : State) (f : Fault) : refuseWhileBusy s t ≠ .fault f := by
  unfold refuseWhileBusy
  split <;> exact nofun

theorem hostPresentSource_of_tooLong (s : State) (present : Bool) {bytes : List Byte} (hl : 4294967296 ≤ bytes.length) :
    hostPresentSource s present bytes = .refused .sourceTooLong :=
  if_pos hl

theorem hostConnect_of_tooLong {s : State} (hl : 4294967296 ≤ s.sink.bytes.length) : hostConnect s = .refused .sourceTooLong :=
  if_pos hl

theorem runHostOp_ne_fault (op : HostOp) (s : State) (f : Fault) : runHostOp op s ≠ .fault f := by
  cases op with
  | presentSource present bytes =>
    show hostPresentSource s present bytes ≠ _
    unfold hostPresentSource
    split
    · exact nofun
    · exact refuseWhileBusy_ne_fault s _ f
  | presentSink present cap bytes => exact refuseWhileBusy_ne_fault s _ f
  | connect =>
    show hostConnect s ≠ _
    unfold hostConnect
    split
    · exact nofun
    · exact refuseWhileBusy_ne_fault s _ f
  | readSink => exact refuseWhileBusy_ne_fault s _ f
  | _ => exact nofun

/-- A host operation is refused for one of the two reasons, and for either of them it is. -/
theorem runHostOp_eq_refused_iff {op : HostOp} {s : State} {r : Refusal} : runHostOp op s = .refused r ↔ RefusedFor s op r := by
  unfold RefusedFor
  cases op with
  | presentSource present bytes =>
    show hostPresentSource s present bytes = _ ↔ _
    obtain hl | hl := Nat.lt_or_ge bytes.length 4294967296
    · rw [hostPresentSource_of_length s present hl, refuseWhileBusy_eq_refused]
      simp [hl, Nat.not_le.mpr hl]
    · rw [hostPresentSource_of_tooLong s present hl]
      simp [hl, Nat.not_lt.mpr hl, eq_comm (b := r)]
  | presentSink present cap bytes =>
    show refuseWhileBusy s _ = _ ↔ _
    rw [refuseWhileBusy_eq_refused]
    simp
  | connect =>
    show hostConnect s = _ ↔ _
    obtain hl | hl := Nat.lt_or_ge s.sink.bytes.length 4294967296
    · rw [hostConnect_of_length s hl, refuseWhileBusy_eq_refused]
      simp [hl, Nat.not_le.mpr hl]
    · rw [hostConnect_of_tooLong hl]
      simp [hl, Nat.not_lt.mpr hl, eq_comm (b := r)]
  | readSink =>
    show refuseWhileBusy s _ = _ ↔ _
    rw [refuseWhileBusy_eq_refused]
    simp
  | _ => simp [runHostOp]

/-- The host moves where it has an operation left and the engine does not move (R20, R221). -/
theorem engineMoves_eq_false_iff_of_host {s : State} {op : HostOp} {rest : List HostOp} (hh : s.host = op :: rest) :
    engineMoves s = false ↔ s.status.busy = false ∨ s.engineDelay ≠ 0 := by
  rw [← Bool.not_eq_true, engineMoves_eq_true_iff, hh, not_and_or, Bool.not_eq_true]
  simp

/-- Settles O50: the engine's step and an idle one answer a next state, so the refusals are those of the host's next operation. -/
theorem stepsAreRefusedForResourcesOnly : Obligations.StepsAreRefusedForResourcesOnly := by
  intro s
  show _ ∧ ∀ r, step s = .refused r ↔ (_ ∨ _) ∧ ∃ op rest, s.host = op :: rest ∧ RefusedFor s op r
  cases hm : engineMoves s with
  | true =>
    obtain ⟨t, ht⟩ := step_answers_of_engineMoves hm
    rw [ht]
    refine ⟨nofun, fun r => ⟨nofun, ?_⟩⟩
    rintro ⟨hidle, op, rest, hh, -⟩
    exact Bool.noConfusion (hm.symm.trans ((engineMoves_eq_false_iff_of_host hh).mpr hidle))
  | false =>
    cases hh : s.host with
    | nil =>
      rw [step_of_idle hm hh]
      exact ⟨nofun, fun r => ⟨nofun, fun ⟨_, op, rest, hcons, _⟩ => nomatch hcons⟩⟩
    | cons op rest =>
      rw [step_of_host hm hh]
      refine ⟨runHostOp_ne_fault op _, fun r => runHostOp_eq_refused_iff.trans ⟨fun h => ?_, ?_⟩⟩
      · exact ⟨(engineMoves_eq_false_iff_of_host hh).mp hm, op, rest, rfl, h⟩
      · rintro ⟨-, op', rest', hcons, h⟩
        obtain ⟨rfl, rfl⟩ := List.cons.inj hcons
        exact h

end Sys2Proof.Machine
end

section
/-! Reset (R210, R211): the registers' values after it, and the sink, which a pending ENCODE leaves unspecified and nothing else touches. -/

namespace Sys2Proof.Machine

/-- The word 0x00000004 is ENCODE's and no other command's (R87), so an ENCODE is pending exactly while it is latched and BUSY = 1. -/
theorem encodePending_eq_true_iff (s : State) :
    encodePending s = true ↔ s.status.busy = true ∧ s.latched = 0x00000004#32 := by
  have hword : decodeWord s.latched = .ok .encodeHdr ↔ s.latched = 0x00000004#32 := decodeWord_eq_ok_iff
  rw [← hword, encodePending, Bool.and_eq_true]
  refine and_congr_right fun _ => ?_
  split
  · next h => exact iff_of_true rfl h
  · next h => exact iff_of_false Bool.false_ne_true h

theorem sinkAfterReset_of_pending {s : State} (h : encodePending s = true) :
    sinkAfterReset s = s.sink.scramble (min (44 + s.dataLen.toNat) s.sink.cap.val) s.draws :=
  if_pos h

theorem sinkAfterReset_of_not_pending {s : State} (h : ¬ encodePending s = true) : sinkAfterReset s = s.sink := if_neg h

theorem statusWord_reset : statusWord Status.reset = 0#32 := by decide

theorem tagToReg_zero : tagToReg Tag.zero = 0#32 := by decide

/-- INFO of a header of zeros: ORDER is BE, the sample width 4, and UNSUP and TAGERR are set (R30, R210). -/
theorem infoWord_reset : infoWord Header.reset = 0x00000341#32 := by decide

/-- Settles O44: the registers read off the reset values, and the sink stays unless an ENCODE is pending. -/
theorem resetValues : Obligations.ResetValues := by
  intro s
  refine ⟨hostReset s, rfl, statusWord_reset, rfl, rfl, rfl, rfl, tagToReg_zero, rfl, tagToReg_zero, tagToReg_zero, rfl, rfl, rfl, rfl, rfl,
    rfl, rfl, tagToReg_zero, rfl, rfl, infoWord_reset, rfl, rfl, rfl, rfl, rfl, fun h => sinkAfterReset_of_not_pending fun hp => ?_⟩
  obtain ⟨hb, hl⟩ := (encodePending_eq_true_iff s).mp hp
  simp [hb, hl] at h

/-- Settles O45: the sink is scrambled below min(44 + L, DST_CAP). -/
theorem resetOverPendingEncode : Obligations.ResetOverPendingEncode := by
  intro s hb hl
  have hsink : (hostReset s).sink = s.sink.scramble (min (44 + s.dataLen.toNat) s.sink.cap.val) s.draws :=
    sinkAfterReset_of_pending ((encodePending_eq_true_iff s).mpr ⟨hb, hl⟩)
  refine ⟨hostReset s, rfl, ?_⟩
  rw [hsink, Sink.scramble_present, Sink.scramble_cap, Sink.scramble_length]
  obtain ⟨hlo, hhi⟩ := Sink.freeLen_bounds s.sink (min (44 + s.dataLen.toNat) s.sink.cap.val) s.draws
  exact ⟨rfl, rfl, hlo, hhi, fun o ho => Sink.scramble_getD _ _ _ o ho⟩

end Sys2Proof.Machine
end

section
/-! CURSOR after each command (R217): where an error leaves it, and its value on success, which no sum wraps around. -/

namespace Sys2Proof.Machine

/-! ### DECODE's errors (R113) -/

/-- From 16 on B is the unsigned value of its field (R81). -/
theorem sourceB_eq_toNat {bs : List Byte} (h : 16 ≤ (sourceFmtBlk bs).toInt) : sourceB bs = (sourceFmtBlk bs).toNat := by
  obtain ⟨hint, -⟩ := toInt_eq_toNat_of_nonneg (w := sourceFmtBlk bs) (by omega)
  rw [sourceB, hint, Int.toNat_natCast]

/-- A CURSOR value behind the format block, as a sum of words. -/
theorem ofNat_add_sourceB {bs : List Byte} (h : 16 ≤ (sourceFmtBlk bs).toInt) (n : Nat) :
    BitVec.ofNat 32 (n + sourceB bs) = BitVec.ofNat 32 n + sourceFmtBlk bs := by
  rw [sourceB_eq_toNat h, BitVec.ofNat_add, BitVec.ofNat_toNat, BitVec.setWidth_eq]

/-- The CURSOR values that go with an error of DECODE on the source `bs` (R113, R217). -/
def errorCursors (bs : List Byte) (e : ErrCode) : List Word :=
  match e with
  | .openFailure => [0#32]
  | .truncatedInput => [0#32, 4#32, 8#32, 20#32, 20#32 + sourceFmtBlk bs]
  | .unsupportedLayout => [28#32 + sourceFmtBlk bs]
  | _ => []

/-- Each check of the parse raises its error with a CURSOR of that error. -/
theorem parseHeader_error_cursor {strict : Bool} {src : Source} {e : ParseError} (h : parseHeader strict src = .error e) :
    BitVec.ofNat 32 e.cursor ∈ errorCursors src.bytes e.code := by
  simp only [parseHeader_eq, ite_error_eq_error_iff] at h
  obtain ⟨-, rfl⟩ | ⟨-, ⟨-, rfl⟩ | ⟨-, ⟨-, rfl⟩ | ⟨-, ⟨-, rfl⟩ | ⟨-, ⟨-, rfl⟩ |
    ⟨hb, ⟨-, rfl⟩ | ⟨-, ⟨-, rfl⟩ | ⟨-, ⟨-, rfl⟩ | ⟨-, hok⟩⟩⟩⟩⟩⟩⟩⟩ := h
  iterate 6 simp [errorCursors]
  · simp [errorCursors, ofNat_add_sourceB (Int.not_lt.mp hb)]
  · simp [errorCursors, ofNat_add_sourceB (Int.not_lt.mp hb)]
  · cases hok

/-- A DECODE that ends in an error leaves CURSOR at a value of that error. -/
theorem exec_decodeHdr_error_cursor {s t : State} (h : exec .decodeHdr s = .next t) (hs : s.status.err = false)
    (ht : t.status.err = true) : t.cursor ∈ errorCursors s.src.bytes t.status.errcode := by
  obtain ⟨hd, c, -, rfl⟩ | ⟨e, hp, rfl⟩ := execDecodeHdr_cases h
  · exact Bool.noConfusion (hs.symm.trans ht)
  · exact parseHeader_error_cursor hp

/-- An error of any other command leaves CURSOR (R187). -/
theorem exec_error_cursor {i : Instr} {s t : State} (h : exec i s = .next t) (hs : s.status.err = false) (ht : t.status.err = true)
    (hi : i ≠ .decodeHdr) : t.cursor = s.cursor := by
  obtain hc | ⟨e, he⟩ := exec_completes_or_raises h
  · exact Bool.noConfusion (hs.symm.trans ((congrArg Status.err hc).symm.trans ht))
  · exact he.cursor hi

/-! ### Success (R217) -/

theorem exec_decodeHdr_success_cursor {s t : State} (hsrc : sourceOk s) (h : exec .decodeHdr s = .next t)
    (ht : t.status.err = false) : t.cursor.toNat = 28 + t.hdr.fmtBlk.toNat := by
  obtain ⟨hd, c, hp, rfl⟩ | ⟨e, -, rfl⟩ := execDecodeHdr_cases h
  · obtain ⟨-, hb, hfit, -, rfl, rfl⟩ := parseHeader_eq_ok_iff.mp hp
    have hlt : 28 + sourceB s.src.bytes < 2 ^ 32 := Nat.lt_of_le_of_lt hfit hsrc
    show (BitVec.ofNat 32 (28 + sourceB s.src.bytes)).toNat = 28 + (sourceFmtBlk s.src.bytes).toNat
    rw [BitVec.toNat_ofNat, Nat.mod_eq_of_lt hlt, sourceB_eq_toNat hb]
  · cases ht

theorem exec_readData_success_cursor {s t : State} (hsrc : sourceOk s) (h : exec .readData s = .next t)
    (ht : t.status.err = false) : t.cursor.toNat = s.cursor.toNat + s.hdr.dataSize.toNat := by
  obtain ⟨-, rfl⟩ | ⟨-, -, rfl⟩ | ⟨-, -, -, -, rfl⟩ | ⟨-, h0, -, r, hr, rfl⟩ := execReadData_cases h
  iterate 3 cases ht
  have hlt : s.cursor.toNat + s.hdr.dataSize.toInt.toNat < 2 ^ 32 := Nat.lt_of_le_of_lt (Source.read_le_length hr) hsrc
  obtain ⟨hint, -⟩ := toInt_eq_toNat_of_nonneg h0
  show (BitVec.ofNat 32 (s.cursor.toNat + s.hdr.dataSize.toInt.toNat)).toNat = _
  rw [BitVec.toNat_ofNat, Nat.mod_eq_of_lt hlt, hint, Int.toNat_natCast]

theorem exec_encodeHdr_success_cursor {s t : State} (h : exec .encodeHdr s = .next t) (ht : t.status.err = false) :
    t.cursor.toNat = 44 + s.dataLen.toNat := by
  obtain ⟨-, rfl⟩ | ⟨-, -, rfl⟩ | ⟨-, -, -, rfl⟩ | ⟨-, -, -, -, rfl⟩ | ⟨hl, -, -, -, rfl⟩ := execEncodeHdr_cases h
  iterate 4 cases ht
  exact Nat.mod_eq_of_lt (by omega)

theorem packBytes_success_cursor {s : State} {bs : List Byte} (ht : (packBytes s bs).status.err = false) :
    (packBytes s bs).cursor.toNat = s.pkIndex.toNat + 4 := by
  obtain ⟨-, he⟩ | ⟨hfit, he⟩ := packBytes_cases s bs <;> rw [he] at ht ⊢
  · cases ht
  · have hlen := s.dataLen.isLt
    exact Nat.mod_eq_of_lt (by omega)

/-- Settles O41: an error's CURSOR by the parse for DECODE and by the raise for the others, and each success by its own sum. -/
theorem cursorAfterEachCommand : Obligations.CursorAfterEachCommand := by
  rintro i s t ⟨-, -, hsrc⟩ h hs
  have hdec : t.status.err = true → i = .decodeHdr → t.cursor ∈ errorCursors s.src.bytes t.status.errcode := by
    rintro ht rfl
    exact exec_decodeHdr_error_cursor h hs ht
  refine ⟨exec_error_cursor h hs, fun ht hi hc => ?_, fun ht hi hc => ?_, fun ht hi hc => ?_, fun ht => ?_⟩
  · simpa [hc, errorCursors] using hdec ht hi
  · simpa [hc, errorCursors] using hdec ht hi
  · simpa [hc, errorCursors] using hdec ht hi
  · cases i with
    | nop => rw [execNop_cases h]; rfl
    | loadDefault => rw [execLoadDefault_cases h]; rfl
    | decodeHdr => exact exec_decodeHdr_success_cursor hsrc h ht
    | readData => exact exec_readData_success_cursor hsrc h ht
    | encodeHdr => exact exec_encodeHdr_success_cursor h ht
    | pack16 => obtain rfl := execPack16_cases h; exact packBytes_success_cursor ht
    | pack32 => obtain rfl := execPack32_cases h; exact packBytes_success_cursor ht

end Sys2Proof.Machine
end

section
/-! Runs (R221 to R223): an idle block, a POLL's run to its command's completion, and how a run ends at its last host operation. -/

namespace Sys2Proof.Machine

/-! ### An idle block (R223) -/

theorem engineMoves_of_not_busy {s : State} (hb : s.status.busy = false) : engineMoves s = false := by
  simp [engineMoves, hb]

/-- Settles O46: the engine does not move, and the host has no operation. -/
theorem idleBlockIsStill : Obligations.IdleBlockIsStill :=
  fun _ hh hb => step_of_idle (engineMoves_of_not_busy hb) hh

/-! ### A polled command completes (R91, R221) -/

theorem CommandWrites.host {i : Instr} {s u : State} (h : CommandWrites i s u) : u.host = s.host :=
  (congrArg State.host h.frame :)

/-- The engine's step completes the command, with or without error, and leaves the host's program (R45, R184). -/
theorem step_of_engineMoves_completes {s : State} (hm : engineMoves s = true) :
    ∃ t, step s = .next t ∧ t.status.busy = false ∧ t.status.done = true ∧ t.host = s.host := by
  cases hd : decodeWord s.latched with
  | ok i =>
    obtain ⟨u, o, hu, -, he⟩ := exec_ends i s
    exact ⟨_, (step_of_ok hm hd).trans (he s.status), endStatus_busy _ o, endStatus_done _ o, hu.host⟩
  | error e => exact ⟨_, step_of_error hm hd, rfl, rfl, rfl⟩

/-- While the engine waits, a POLL reads STATUS and stands next again, with one host step fewer to wait for. -/
theorem step_of_poll_waiting {s : State} {rest : List HostOp} (hb : s.status.busy = true) (hh : s.host = .poll :: rest)
    (hd : s.engineDelay ≠ 0) :
    step s = .next { s with response := .word (readReg s .status), engineDelay := s.engineDelay - 1 } := by
  rw [step_of_host ((engineMoves_eq_false_iff_of_host hh).mpr (.inr hd)) hh, runHostOp, hostPoll_eq]
  simp only [hb, if_true, ← hh]
  rfl

/-- A POLL of a busy block runs for exactly the host steps the engine waits for, and the engine's step after them. -/
theorem run_of_poll {s : State} {rest : List HostOp} (hb : s.status.busy = true) (hh : s.host = .poll :: rest) :
    ∃ t, core.run (s.engineDelay + 1) s = .next t ∧ t.status.busy = false ∧ t.status.done = true ∧ t.host = s.host := by
  induction hn : s.engineDelay generalizing s with
  | zero =>
    obtain ⟨t, hstep, hend⟩ := step_of_engineMoves_completes ((engineMoves_eq_true_iff s).mpr ⟨hb, .inr hn⟩)
    exact ⟨t, core_run_next 0 s t hstep, hend⟩
  | succ n ih =>
    have hstep := step_of_poll_waiting hb hh (by omega)
    rw [core_run_next _ _ _ hstep]
    exact ih (s := { s with response := .word (readReg s .status), engineDelay := s.engineDelay - 1 }) hb hh (by simp [hn])

/-- Settles O51: the run of the POLL, of engineDelay + 1 steps. -/
theorem polledCommandCompletes : Obligations.PolledCommandCompletes := by
  intro s rest hb hh
  obtain ⟨t, hrun, hbusy, hdone, hhost⟩ := run_of_poll hb hh
  exact ⟨_, t, hrun, hbusy, hdone, hhost, Nat.le_refl _⟩

/-! ### The end of a run (R222) -/

theorem endConditions_eq_true_iff (t : State) :
    endConditions t = true ↔
      t.host = [] ∧ t.status.busy = false ∧ t.faults.hostBadAccess = false ∧ t.faults.hostHazard = false := by
  have hf : t.faults = ⟨false, false⟩ ↔ t.faults.hostBadAccess = false ∧ t.faults.hostHazard = false :=
    FaultSet.mk.injEq .. ▸ Iff.rfl
  simp [endConditions, hf, and_assoc]

theorem runEndsWell_eq_true_iff {n : Nat} {s : State} :
    runEndsWell n s = true ↔ ∃ t, lastHostState n s = some t ∧ endConditions t = true := by
  unfold runEndsWell
  cases lastHostState n s <;> simp

theorem runResult_eq_some_iff {n : Nat} {s : State} {o : Observed} :
    runResult n s = some o ↔ ∃ t, lastHostState n s = some t ∧ endConditions t = true ∧ observe t = o := by
  unfold runResult
  cases lastHostState n s <;> simp

/-- Settles O53: the state of the last host operation is the first of the run with no operation left, and the three conditions are asked
of it. -/
theorem runEndsWellAtItsLastHostOperation : Obligations.RunEndsWellAtItsLastHostOperation := by
  intro n s
  simp only [runResult_eq_some_iff, runEndsWell_eq_true_iff, endConditions_eq_true_iff]
  constructor
  · constructor
    · rintro ⟨t, hl, -, hb, hba, hhz⟩
      obtain ⟨k, hk, hrun, hh, hfirst⟩ := (lastHostState_eq_some n s t).mp hl
      exact ⟨k, t, hk, hrun, hh, hb, hba, hhz, hfirst⟩
    · rintro ⟨k, t, hk, hrun, hh, hb, hba, hhz, hfirst⟩
      exact ⟨t, (lastHostState_eq_some n s t).mpr ⟨k, hk, hrun, hh, hfirst⟩, hh, hb, hba, hhz⟩
  · intro o
    constructor
    · rintro ⟨t, hl, hend, ho⟩
      exact ⟨⟨t, hl, hend⟩, t, hl, ho.symm⟩
    · rintro ⟨⟨t, hl, hend⟩, t', hl', ho⟩
      obtain rfl := Option.some.inj (hl.symm.trans hl')
      exact ⟨t, hl, hend, ho.symm⟩

/-! ### Runs that are spoiled (R49, R192, R222) -/

theorem FaultSet.sub_trans {f g h : FaultSet} (hfg : FaultSet.sub f g) (hgh : FaultSet.sub g h) : FaultSet.sub f h :=
  ⟨hgh.1 ∘ hfg.1, hgh.2 ∘ hfg.2⟩

/-- A run of `n + 1` steps that answers a next state took its first step and ran on from there. -/
theorem core_run_succ_eq_next {n : Nat} {s t : State} (h : core.run (n + 1) s = .next t) :
    ∃ u : State, step s = .next u ∧ core.run n u = .next t := by
  simp only [Host.Core.run] at h
  split at h
  · next u hu => exact ⟨u, hu, h⟩
  · cases h
  · cases h

/-- A run keeps every recorded fault, since every step does (R49). -/
theorem core_run_faults {n : Nat} {s t : State} (h : core.run n s = .next t) : FaultSet.sub s.faults t.faults := by
  induction n generalizing s with
  | zero => cases h; exact FaultSet.sub_refl _
  | succ n ih =>
    obtain ⟨u, hstep, hrun⟩ := core_run_succ_eq_next h
    exact FaultSet.sub_trans (modelFaultsAreNeverCleared s u hstep) (ih hrun)

/-- A run that ends well from `s` shows that `s` has no fault recorded. -/
theorem runEndsWell_no_faults {n : Nat} {s : State} (h : runEndsWell n s = true) :
    s.faults.hostBadAccess = false ∧ s.faults.hostHazard = false := by
  obtain ⟨t, hl, hend⟩ := runEndsWell_eq_true_iff.mp h
  obtain ⟨k, -, hrun, -⟩ := (lastHostState_eq_some n s t).mp hl
  obtain ⟨-, -, hbad, hhaz⟩ := (endConditions_eq_true_iff t).mp hend
  simpa [FaultSet.sub, hbad, hhaz] using core_run_faults hrun

/-- The step that takes the host's last operation off decides the run: the state it answers is the one the conditions are asked of. -/
theorem lastHostState_of_last_step {n : Nat} {s t u : State} (hh : s.host ≠ []) (hs : step s = .next t) (ht : t.host = [])
    (h : lastHostState n s = some u) : u = t := by
  cases n with
  | zero => simp [lastHostState, hh] at h
  | succ n =>
    rw [lastHostState_next n s t hh hs, lastHostState_done n t ht] at h
    exact (Option.some.inj h).symm

/-- Settles O54: BUSY = 1 in the state that decides the run, or a fault that every later state keeps. -/
theorem pendingCommandOrModelFaultSpoilsTheRun : Obligations.PendingCommandOrModelFaultSpoilsTheRun := by
  refine ⟨fun s t op hh hs ht hb n => Bool.eq_false_iff.mpr fun h => ?_, fun s hf n => Bool.eq_false_iff.mpr fun h => ?_⟩
  · obtain ⟨u, hl, hend⟩ := runEndsWell_eq_true_iff.mp h
    obtain rfl := lastHostState_of_last_step (by simp [hh]) hs ht hl
    obtain ⟨-, hidle, -⟩ := (endConditions_eq_true_iff u).mp hend
    exact Bool.noConfusion (hidle.symm.trans hb)
  · obtain ⟨hbad, hhaz⟩ := runEndsWell_no_faults h
    simp [hbad, hhaz] at hf

end Sys2Proof.Machine
end

section
/-! The accesses that are not carried out: a refused register access records HOST_BAD_ACCESS (R23), an access while BUSY = 1 records
HOST_HAZARD (R214), and both leave the rest of the block alone; and the CMD write, which issues the command (R24). -/

namespace Sys2Proof.Machine

/-! ### Which accesses the register port refuses (R23) -/

theorem regAt_of_refused {width offset : Nat} (h : width ≠ 32 ∨ offset % 4 ≠ 0 ∨ 0xFC < offset) : regAt width offset = none :=
  if_neg (by omega)

theorem regAt_of_legal {offset : Nat} (ha : offset % 4 = 0) (hhi : offset ≤ 0xFC) : regAt 32 offset = some (regOfWord (offset / 4)) :=
  if_pos ⟨rfl, ha, hhi⟩

/-! ### What the host records instead of the access -/

theorem runHostOp_regWrite_refused {width offset : Nat} (s : State) (v : Word) (hr : regAt width offset = none) :
    runHostOp (.regWrite width offset v) s = .next (s.record .hostBadAccess) := by
  simp only [runHostOp, hostRegWrite, hr]

theorem runHostOp_regRead_refused {width offset : Nat} (s : State) (hr : regAt width offset = none) :
    runHostOp (.regRead width offset) s = .next (s.record .hostBadAccess).respondFreeWord := by
  simp only [runHostOp, hostRegRead, hr]

theorem runHostOp_regWrite_busy {s : State} {width offset : Nat} {r : Reg} (v : Word) (hr : regAt width offset = some r)
    (hb : s.status.busy = true) : runHostOp (.regWrite width offset v) s = .next (s.record .hostHazard) := by
  simp only [runHostOp, hostRegWrite, hr, if_pos hb]

theorem runHostOp_dataWrite_busy {s : State} (i : Nat) (b : Byte) (hb : s.status.busy = true) :
    runHostOp (.dataWrite i b) s = .next (s.record .hostHazard) :=
  congrArg Host.Outcome.next (if_pos hb)

theorem runHostOp_dataRead_busy {s : State} (i : Nat) (hb : s.status.busy = true) :
    runHostOp (.dataRead i) s = .next (s.record .hostHazard).respondFreeByte :=
  congrArg Host.Outcome.next (if_pos hb)

/-- Settles O17: at offset 0 stands CMD, whose write issues the command from an idle block and is a hazard in a busy one. -/
theorem commandWriteIssues : Obligations.CommandWriteIssues := by
  intro s w
  have hcmd : regAt 32 0x00 = some .cmd := rfl
  exact ⟨fun hb => ⟨runHostOp_regWrite_idle w hcmd hb, runHostOp_regRead_idle hcmd hb⟩, fun hb => runHostOp_regWrite_busy w hcmd hb⟩

/-- Settles O16: at such a width or offset there is no register. -/
theorem refusedAccessIsRecorded : Obligations.RefusedAccessIsRecorded := by
  intro s width offset v h
  have hr := regAt_of_refused h
  exact ⟨runHostOp_regWrite_refused s v hr, runHostOp_regRead_refused s hr⟩

/-- Settles O23: a legal offset holds a register, so its write reaches the BUSY test, as both data-port accesses do. -/
theorem busyAccessIsHazard : Obligations.BusyAccessIsHazard :=
  fun _ _ i v b hb ha hhi =>
    ⟨runHostOp_regWrite_busy v (regAt_of_legal ha hhi) hb, runHostOp_dataWrite_busy i b hb, runHostOp_dataRead_busy i hb⟩

end Sys2Proof.Machine
end
